-- ==== Sys2Proof/Word.lean ====
section
/-! DEFINITION. The SC-2's word and byte types (spec/00_scope.md R6: 16-bit registers, byte-addressed memory). -/

namespace Sys2Proof

/-- One 8-bit byte: the addressable unit of memory and the width of an I/O port (R6, R36). -/
abbrev Byte := BitVec 8

/-- One 16-bit word: a register, an address, an instruction word (R6). -/
abbrev Word := BitVec 16

end Sys2Proof
end

