-- ==== Sys2Proof/Config.lean ====
section
/-! DEFINITION. What the SC-2's spec fixes once for a machine: the parameters of spec/00_scope.md R7 with their
defaults, and the values the spec leaves open, as constants without a body (nothing can be proved of them). -/

namespace Sys2Proof

/-- What passes between the CPU and the device side: the history the `IO_ORACLE` sees (spec/43_io.md R216,
spec/60_exceptions.md R256). -/
inductive IoEvent where
  /-- IN read this port and got this byte (R212). -/
  | read (port : Nat) (answer : Byte)
  /-- OUT delivered this byte to this port (R213). -/
  | write (port : Nat) (value : Byte)
  /-- An interrupt was entered for this line (R256). -/
  | entry (line : Fin 8)
  deriving DecidableEq, Repr

/-- The two protection policies of spec/20_memory.md R62. -/
inductive ProtectionPolicy where
  /-- Every access succeeds whatever OSB and TXB hold (the default). -/
  | none
  /-- `refuse_after_boundary_set`: once LDOS or LDRO has executed, stores have no meaning (R62), and once LDOS has
  executed the supervisor instructions have none either (R270). -/
  | refuseAfterBoundarySet
  deriving DecidableEq, Repr

/-! The parameters R7 gives a default. -/

/-- `MULDIV_SIGNED`, default true (D15, D16; R153, R154). -/
def Config.mulDivSigned : Bool := true
/-- `SUB_CARRY_IS_ADDER_CARRY`, default true (D12; R152). -/
def Config.subCarryIsAdderCarry : Bool := true
/-- `SHR_ARITHMETIC`, default false (D14; R160). -/
def Config.shrArithmetic : Bool := false
/-- `SHIFT_COMMENTS_AS_PRINTED`, default false: the mnemonic governs (D14; R159, R160). -/
def Config.shiftCommentsAsPrinted : Bool := false
/-- `TRAP_VECTOR_INDIRECT`, default false: control enters the table (D21; R187, R258). -/
def Config.trapVectorIndirect : Bool := false
/-- `STRICT_RESERVED_FIELDS`, default true (D7; R97). -/
def Config.strictReservedFields : Bool := true
/-- `PROTECTION_POLICY`, default `none` (D28; R62, R270). -/
def Config.protectionPolicy : ProtectionPolicy := .none
/-- `IRQ_AUTO_MASK`, default false (D25; R259). -/
def Config.irqAutoMask : Bool := false

/-! The parameters R7 leaves open. -/

/-- DESIGN CHOICE (log 1, unsafe): `RESET_PC`, which the spec leaves open with no default (R291), is 0x0000 in
`State.reset`. -/
def Config.resetPc : Word := 0x0000#16

/-- `INIT_MEM` (R293): the byte an address holds when nothing has been listed or stored there. A free value (R40, log 3):
no body, so no proof can rest on what it is. -/
opaque Config.initMem : Nat → Byte

/-- `IO_ORACLE`, part (a) (R216): the byte a device answers to IN at this instruction boundary, after this history, on
this port, when `State.portFeed` gives no answer. A free value (log 4). -/
opaque Config.portByte : Nat → List IoEvent → Nat → Byte

/-- `IO_ORACLE`, part (c) (R216, R256): the eight request lines at this instruction boundary, after this history, when
`State.irqFeed` gives no sample. A free value (log 4). -/
opaque Config.irqSample : Nat → List IoEvent → BitVec 8

end Sys2Proof
end

