-- ==== Sys2Proof/Syntax.lean ====
section
/-! DEFINITION. The instructions of the SC-2: one constructor for each of the 59 rows of spec/opcode_table.json
(spec/30_encoding.md R105). A conditional listing entry has one constructor for each of its four conditions; a load
or store has one for each addressing mode. -/

namespace Sys2Proof

/-- A working register number, 0 to 15, `$R0` to `$RF` (R20, R85). -/
abbrev Reg := Fin 16

/-- `$R8`: high word of a product, quotient of a division (R23). -/
abbrev Reg.r8 : Reg := 8
/-- `$R9`: low word of a product, remainder of a division (R23). -/
abbrev Reg.r9 : Reg := 9
/-- IP-0, `$RC`: the index pointer of loads (R21). -/
abbrev Reg.ip0 : Reg := 12
/-- IP-1, `$RD`: the index pointer of stores (R21). -/
abbrev Reg.ip1 : Reg := 13
/-- BP, `$RE`: the base pointer (R21). -/
abbrev Reg.bp : Reg := 14
/-- SP, `$RF`: the stack pointer (R21). -/
abbrev Reg.sp : Reg := 15

/-- The instructions. `d` is a destination register, `s` a source register, `a` an address register, `r` a target
register; immediates and offsets are the encoded fields with exactly the field's width (R81, R84); a port is its
number, which `Instr.WellFormed` bounds by 64. -/
inductive Instr where
  /-- `LDI $Rd, immed7` (R112). -/
  | ldi (d : Reg) (immed7 : BitVec 7)
  /-- `LDA $Rd, #addr16`, the one two-word instruction (R113). -/
  | lda (d : Reg) (addr16 : Word)
  /-- `LDB $Rd, $Ra` (R114). -/
  | ldbReg (d a : Reg)
  /-- `LDB $Rd, %$Ra` (R116). -/
  | ldbBase (d a : Reg)
  /-- `LDB $Rd&` (R118). -/
  | ldbIdx (d : Reg)
  /-- `LDB $Rd, @$Ra` (R120). -/
  | ldbInd (d a : Reg)
  /-- `LDW $Rd, $Ra` (R115). -/
  | ldwReg (d a : Reg)
  /-- `LDW $Rd, %$Ra` (R117). -/
  | ldwBase (d a : Reg)
  /-- `LDW $Rd&` (R119). -/
  | ldwIdx (d : Reg)
  /-- `LDW $Rd, @$Ra` (R121). -/
  | ldwInd (d a : Reg)
  /-- `MOV $Rd, $Rs` (R122). -/
  | mov (d s : Reg)
  /-- `STB $Rs, $Ra` (R123). -/
  | stbReg (s a : Reg)
  /-- `STB $Rs, %$Ra` (R125). -/
  | stbBase (s a : Reg)
  /-- `STB $Rs&` (R127). -/
  | stbIdx (s : Reg)
  /-- `STB $Rs, @$Ra` (R129). -/
  | stbInd (s a : Reg)
  /-- `STW $Rs, $Ra` (R124). -/
  | stwReg (s a : Reg)
  /-- `STW $Rs, %$Ra` (R126). -/
  | stwBase (s a : Reg)
  /-- `STW $Rs&` (R128). -/
  | stwIdx (s : Reg)
  /-- `STW $Rs, @$Ra` (R130). -/
  | stwInd (s a : Reg)
  /-- `PUSHB $Rs` (R131). -/
  | pushb (s : Reg)
  /-- `POPB $Rd` (R132). -/
  | popb (d : Reg)
  /-- `PUSHW $Rs` (R133). -/
  | pushw (s : Reg)
  /-- `POPW $Rd` (R134). -/
  | popw (d : Reg)
  /-- `ADD $Rd, $Rs` (R151). -/
  | add (d s : Reg)
  /-- `SUB $Rd, $Rs` (R152). -/
  | sub (d s : Reg)
  /-- `MUL $Ro1, $Ro2` (R153). -/
  | mul (d s : Reg)
  /-- `DIV $Ro1, $Ro2` (R154). -/
  | div (d s : Reg)
  /-- `AND $Rd, $Rs` (R155). -/
  | bitAnd (d s : Reg)
  /-- `OR $Rd, $Rs` (R156). -/
  | bitOr (d s : Reg)
  /-- `XOR $Rd, $Rs` (R157). -/
  | bitXor (d s : Reg)
  /-- `NOT $Rd` (R158). -/
  | bitNot (d : Reg)
  /-- `SHL $Rd, $Rs` (R159). -/
  | shl (d s : Reg)
  /-- `SHR $Rd, $Rs` (R160). -/
  | shr (d s : Reg)
  /-- `BR immed11` (R181). -/
  | brImm (immed11 : BitVec 11)
  /-- `BR $Rr` (R182). -/
  | brReg (r : Reg)
  /-- `BRn immed9` (R183). -/
  | brnImm (immed9 : BitVec 9)
  /-- `BRz immed9` (R183). -/
  | brzImm (immed9 : BitVec 9)
  /-- `BRc immed9` (R183). -/
  | brcImm (immed9 : BitVec 9)
  /-- `BRo immed9` (R183). -/
  | broImm (immed9 : BitVec 9)
  /-- `BRn $Rr` (R184). -/
  | brnReg (r : Reg)
  /-- `BRz $Rr` (R184). -/
  | brzReg (r : Reg)
  /-- `BRc $Rr` (R184). -/
  | brcReg (r : Reg)
  /-- `BRo $Rr` (R184). -/
  | broReg (r : Reg)
  /-- `JSR $Rr` (R185). -/
  | jsr (r : Reg)
  /-- `JSRn $Rr` (R186). -/
  | jsrn (r : Reg)
  /-- `JSRz $Rr` (R186). -/
  | jsrz (r : Reg)
  /-- `JSRc $Rr` (R186). -/
  | jsrc (r : Reg)
  /-- `JSRo $Rr` (R186). -/
  | jsro (r : Reg)
  /-- `TRAP vect6` (R187). -/
  | trap (vect6 : BitVec 6)
  /-- `RET` (R188). -/
  | ret
  /-- `RETI` (R189). -/
  | reti
  /-- `IN $Rd, PORT6` (R214). -/
  | portIn (d : Reg) (port : Nat)
  /-- `OUT $Rs, PORT6` (R215). -/
  | portOut (s : Reg) (port : Nat)
  /-- `EI IRQ8` (R231). -/
  | ei (irq8 : Byte)
  /-- `DI IRQ8` (R232). -/
  | di (irq8 : Byte)
  /-- `HALT` (R233). -/
  | halt
  /-- `NOP` (R234). -/
  | nop
  /-- `LDOS immed11` (R235). -/
  | ldos (immed11 : BitVec 11)
  /-- `LDRO immed11` (R236). -/
  | ldro (immed11 : BitVec 11)
  deriving DecidableEq, Repr

end Sys2Proof
end

