-- ==== Sys2Proof/WellFormed.lean ====
section
/-! DEFINITION. Which instructions have an encoding. Register and immediate fields have exactly their encoded width,
so the one check left is the port number of IN and OUT (spec/43_io.md R211: 0x00 to 0x3F). -/

namespace Sys2Proof

/-- The number of I/O ports, 64 (R6 `NPORTS`). -/
def portCount : Nat := 64

/-- An instruction is well formed when a port it names is one of the 64 (R211); every other operand is bounded by its
type. -/
def Instr.WellFormed : Instr → Bool
  | .portIn _ port => decide (port < portCount)
  | .portOut _ port => decide (port < portCount)
  | .ldi _ _ | .lda _ _ | .ldbReg _ _ | .ldbBase _ _ | .ldbIdx _ | .ldbInd _ _ => true
  | .ldwReg _ _ | .ldwBase _ _ | .ldwIdx _ | .ldwInd _ _ | .mov _ _ => true
  | .stbReg _ _ | .stbBase _ _ | .stbIdx _ | .stbInd _ _ => true
  | .stwReg _ _ | .stwBase _ _ | .stwIdx _ | .stwInd _ _ => true
  | .pushb _ | .popb _ | .pushw _ | .popw _ => true
  | .add _ _ | .sub _ _ | .mul _ _ | .div _ _ | .bitAnd _ _ | .bitOr _ _ | .bitXor _ _ => true
  | .bitNot _ | .shl _ _ | .shr _ _ => true
  | .brImm _ | .brReg _ | .brnImm _ | .brzImm _ | .brcImm _ | .broImm _ => true
  | .brnReg _ | .brzReg _ | .brcReg _ | .broReg _ => true
  | .jsr _ | .jsrn _ | .jsrz _ | .jsrc _ | .jsro _ | .trap _ | .ret | .reti => true
  | .ei _ | .di _ | .halt | .nop | .ldos _ | .ldro _ => true

end Sys2Proof
end

