-- ==== Sys2Proof/Decode.lean ====
section
/-! DEFINITION. The decoder, total on any bytes and rejecting by name, and after it the encoder, both written from
spec/30_encoding.md (formats R82, fields R81, opcode map R86 to R90, must-be-zero bits R97). -/

namespace Sys2Proof

/-- Why bytes are no instruction (R96 to R99). -/
inductive DecodeError where
  /-- Fewer bytes than the instruction's length (R80). -/
  | truncated
  /-- One of the eight unassigned opcodes (R98). -/
  | unassignedOpcode (op : BitVec 5)
  /-- An assigned opcode with a reserved `mode` or function value (R87, R88, R90). -/
  | reservedMode (op : BitVec 5) (mode : BitVec 3)
  /-- An index-mode form whose second register field is not the index register (R87). -/
  | wrongIndexRegister (op : BitVec 5) (field : BitVec 4)
  /-- A 1 in a must-be-zero bit (R97). -/
  | nonzeroReservedBits (op : BitVec 5)
  deriving DecidableEq, Repr

/-! ## Fields (R81) -/

/-- `op`, bits 15:11. -/
def opField (w : Word) : BitVec 5 := w.extractLsb' 11 5
/-- `r1`, bits 10:7. -/
def r1Field (w : Word) : BitVec 4 := w.extractLsb' 7 4
/-- `r2`, bits 6:3. -/
def r2Field (w : Word) : BitVec 4 := w.extractLsb' 3 4
/-- `mode`, bits 2:0. -/
def modeField (w : Word) : BitVec 3 := w.extractLsb' 0 3
/-- `cc`, bits 1:0. -/
def ccField (w : Word) : BitVec 2 := w.extractLsb' 0 2
/-- `dir`, bit 0. -/
def dirField (w : Word) : BitVec 1 := w.extractLsb' 0 1
/-- `immed7`, bits 6:0; also the seven must-be-zero bits of LDA, BR $Rr and JSR. -/
def immed7Field (w : Word) : BitVec 7 := w.extractLsb' 0 7
/-- `immed11`, bits 10:0; also the eleven must-be-zero bits of HALT and NOP. -/
def immed11Field (w : Word) : BitVec 11 := w.extractLsb' 0 11
/-- `immed9`, bits 10:2. -/
def immed9Field (w : Word) : BitVec 9 := w.extractLsb' 2 9
/-- `vect6`, bits 10:5. -/
def vect6Field (w : Word) : BitVec 6 := w.extractLsb' 5 6
/-- `port6`, bits 6:1. -/
def port6Field (w : Word) : BitVec 6 := w.extractLsb' 1 6
/-- `irq8`, bits 10:3. -/
def irq8Field (w : Word) : BitVec 8 := w.extractLsb' 3 8
/-- Bits 6:2, zero in the register forms of BRcc and in JSRcc. -/
def rcZeroField (w : Word) : BitVec 5 := w.extractLsb' 2 5
/-- Bits 4:0, zero in TRAP. -/
def trapZeroField (w : Word) : BitVec 5 := w.extractLsb' 0 5
/-- Bits 10:1, zero in RET and RETI. -/
def retZeroField (w : Word) : BitVec 10 := w.extractLsb' 1 10

/-- A 4-bit register field is the register number (R85). -/
def regOfField (b : BitVec 4) : Reg := b.toFin
/-- The 4-bit field that names a register (R85). -/
def fieldOfReg (r : Reg) : BitVec 4 := BitVec.ofFin r

/-- The first register operand. -/
def reg1 (w : Word) : Reg := regOfField (r1Field w)
/-- The second register operand. -/
def reg2 (w : Word) : Reg := regOfField (r2Field w)

/-- The 16-bit word of two bytes, the high-order byte first (spec/20_memory.md R50, R52). -/
def wordOfBytes (hi lo : Byte) : Word := hi ++ lo
/-- `hob(v)`, bits 15:8 (R9). -/
def hob (v : Word) : Byte := v.extractLsb' 8 8
/-- `lob(v)`, bits 7:0 (R9). -/
def lob (v : Word) : Byte := v.extractLsb' 0 8
/-- The two bytes of a word in memory order (R50). -/
def bytesOfWord (v : Word) : List Byte := [hob v, lob v]

/-! ## Decoding one instruction (R96) -/

/-- Accept `i` unless strict decoding finds a 1 in its must-be-zero bits (R97). -/
def needZero (strict : Bool) {n : Nat} (w : Word) (bits : BitVec n) (i : Instr) : Except DecodeError Instr :=
  if strict && bits != 0#n then .error (.nonzeroReservedBits (opField w)) else .ok i

/-- Accept an index-mode form only with its own index register in `r2` (R87, D6). -/
def needIndex (w : Word) (index : Reg) (i : Instr) : Except DecodeError Instr :=
  if reg2 w = index then .ok i else .error (.wrongIndexRegister (opField w) (r2Field w))

/-- The rejection of a reserved `mode` or function value (R87, R90). -/
def badMode (w : Word) : Except DecodeError Instr := .error (.reservedMode (opField w) (modeField w))

/-- LDB, opcode 00011 (R87). -/
def decodeLdb (w : Word) : Except DecodeError Instr :=
  match (modeField w).toNat with
  | 0 => .ok (.ldbReg (reg1 w) (reg2 w))
  | 1 => .ok (.ldbBase (reg1 w) (reg2 w))
  | 2 => needIndex w Reg.ip0 (.ldbIdx (reg1 w))
  | 3 => .ok (.ldbInd (reg1 w) (reg2 w))
  | _ => badMode w

/-- LDW and MOV, opcode 00100 (R87). -/
def decodeLdw (w : Word) : Except DecodeError Instr :=
  match (modeField w).toNat with
  | 0 => .ok (.ldwReg (reg1 w) (reg2 w))
  | 1 => .ok (.ldwBase (reg1 w) (reg2 w))
  | 2 => needIndex w Reg.ip0 (.ldwIdx (reg1 w))
  | 3 => .ok (.ldwInd (reg1 w) (reg2 w))
  | 4 => .ok (.mov (reg1 w) (reg2 w))
  | _ => badMode w

/-- STB, opcode 00101 (R87). -/
def decodeStb (w : Word) : Except DecodeError Instr :=
  match (modeField w).toNat with
  | 0 => .ok (.stbReg (reg1 w) (reg2 w))
  | 1 => .ok (.stbBase (reg1 w) (reg2 w))
  | 2 => needIndex w Reg.ip1 (.stbIdx (reg1 w))
  | 3 => .ok (.stbInd (reg1 w) (reg2 w))
  | _ => badMode w

/-- STW, opcode 00110 (R87). -/
def decodeStw (w : Word) : Except DecodeError Instr :=
  match (modeField w).toNat with
  | 0 => .ok (.stwReg (reg1 w) (reg2 w))
  | 1 => .ok (.stwBase (reg1 w) (reg2 w))
  | 2 => needIndex w Reg.ip1 (.stwIdx (reg1 w))
  | 3 => .ok (.stwInd (reg1 w) (reg2 w))
  | _ => badMode w

/-- PUSHB, POPB, PUSHW, POPW, opcode 00111, `r2` zero (R87). -/
def decodeStack (strict : Bool) (w : Word) : Except DecodeError Instr :=
  match (modeField w).toNat with
  | 0 => needZero strict w (r2Field w) (.pushb (reg1 w))
  | 1 => needZero strict w (r2Field w) (.popb (reg1 w))
  | 2 => needZero strict w (r2Field w) (.pushw (reg1 w))
  | 3 => needZero strict w (r2Field w) (.popw (reg1 w))
  | _ => badMode w

/-- The eight functions of opcode 01001 (R88). -/
def decodeAlu (strict : Bool) (w : Word) : Except DecodeError Instr :=
  match (modeField w).toNat with
  | 0 => .ok (.add (reg1 w) (reg2 w))
  | 1 => .ok (.sub (reg1 w) (reg2 w))
  | 2 => .ok (.mul (reg1 w) (reg2 w))
  | 3 => .ok (.div (reg1 w) (reg2 w))
  | 4 => .ok (.bitAnd (reg1 w) (reg2 w))
  | 5 => .ok (.bitOr (reg1 w) (reg2 w))
  | 6 => .ok (.bitXor (reg1 w) (reg2 w))
  | _ => needZero strict w (r2Field w) (.bitNot (reg1 w))

/-- SHL, opcode 01000, `mode` 000 (R88). -/
def decodeShl (w : Word) : Except DecodeError Instr :=
  match (modeField w).toNat with
  | 0 => .ok (.shl (reg1 w) (reg2 w))
  | _ => badMode w

/-- SHR, opcode 01010, `mode` 000 (R88). -/
def decodeShr (w : Word) : Except DecodeError Instr :=
  match (modeField w).toNat with
  | 0 => .ok (.shr (reg1 w) (reg2 w))
  | _ => badMode w

/-- BRn, BRz, BRc, BRo, immediate form, opcode 10010 (R89). -/
def decodeBranchImm (w : Word) : Except DecodeError Instr :=
  match (ccField w).toNat with
  | 0 => .ok (.brnImm (immed9Field w))
  | 1 => .ok (.brzImm (immed9Field w))
  | 2 => .ok (.brcImm (immed9Field w))
  | _ => .ok (.broImm (immed9Field w))

/-- BRn, BRz, BRc, BRo, register form, opcode 10011 (R89, R97). -/
def decodeBranchReg (strict : Bool) (w : Word) : Except DecodeError Instr :=
  match (ccField w).toNat with
  | 0 => needZero strict w (rcZeroField w) (.brnReg (reg1 w))
  | 1 => needZero strict w (rcZeroField w) (.brzReg (reg1 w))
  | 2 => needZero strict w (rcZeroField w) (.brcReg (reg1 w))
  | _ => needZero strict w (rcZeroField w) (.broReg (reg1 w))

/-- JSRn, JSRz, JSRc, JSRo, opcode 10101 (R89, R97). -/
def decodeCallCond (strict : Bool) (w : Word) : Except DecodeError Instr :=
  match (ccField w).toNat with
  | 0 => needZero strict w (rcZeroField w) (.jsrn (reg1 w))
  | 1 => needZero strict w (rcZeroField w) (.jsrz (reg1 w))
  | 2 => needZero strict w (rcZeroField w) (.jsrc (reg1 w))
  | _ => needZero strict w (rcZeroField w) (.jsro (reg1 w))

/-- RET and RETI, opcode 10111, bits 10:1 zero (R90, R97). -/
def decodeReturn (strict : Bool) (w : Word) : Except DecodeError Instr :=
  match (dirField w).toNat with
  | 0 => needZero strict w (retZeroField w) .ret
  | _ => needZero strict w (retZeroField w) .reti

/-- IN and OUT, opcode 11000 (R90). -/
def decodeIo (w : Word) : Except DecodeError Instr :=
  match (dirField w).toNat with
  | 0 => .ok (.portIn (reg1 w) (port6Field w).toNat)
  | _ => .ok (.portOut (reg1 w) (port6Field w).toNat)

/-- EI and DI, opcode 11001 (R90). -/
def decodeIrq (w : Word) : Except DecodeError Instr :=
  match (modeField w).toNat with
  | 0 => .ok (.ei (irq8Field w))
  | 1 => .ok (.di (irq8Field w))
  | _ => badMode w

/-- The instruction a first word is, with the word that follows it, which only LDA uses (R86, R96). -/
def decodeWord (strict : Bool) (w operand : Word) : Except DecodeError Instr :=
  match (opField w).toNat with
  | 0b00001 => .ok (.ldi (reg1 w) (immed7Field w))
  | 0b00010 => needZero strict w (immed7Field w) (.lda (reg1 w) operand)
  | 0b00011 => decodeLdb w
  | 0b00100 => decodeLdw w
  | 0b00101 => decodeStb w
  | 0b00110 => decodeStw w
  | 0b00111 => decodeStack strict w
  | 0b01000 => decodeShl w
  | 0b01001 => decodeAlu strict w
  | 0b01010 => decodeShr w
  | 0b10000 => .ok (.brImm (immed11Field w))
  | 0b10001 => needZero strict w (immed7Field w) (.brReg (reg1 w))
  | 0b10010 => decodeBranchImm w
  | 0b10011 => decodeBranchReg strict w
  | 0b10100 => needZero strict w (immed7Field w) (.jsr (reg1 w))
  | 0b10101 => decodeCallCond strict w
  | 0b10110 => needZero strict w (trapZeroField w) (.trap (vect6Field w))
  | 0b10111 => decodeReturn strict w
  | 0b11000 => decodeIo w
  | 0b11001 => decodeIrq w
  | 0b11010 => needZero strict w (immed11Field w) .halt
  | 0b11011 => needZero strict w (immed11Field w) .nop
  | 0b11100 => .ok (.ldos (immed11Field w))
  | 0b11101 => .ok (.ldro (immed11Field w))
  | _ => .error (.unassignedOpcode (opField w))

/-- A second word follows exactly the opcode of LDA (R80). -/
def hasOperandWord (w : Word) : Bool := opField w == 0b00010#5

/-- Decode the instruction at the head of a byte sequence, and give the bytes after it (R80, R83, R96). -/
def decode (bytes : List Byte) : Except DecodeError (Instr × List Byte) :=
  match bytes with
  | b0 :: b1 :: rest =>
    if hasOperandWord (wordOfBytes b0 b1) then
      match rest with
      | b2 :: b3 :: rest' =>
        match decodeWord Config.strictReservedFields (wordOfBytes b0 b1) (wordOfBytes b2 b3) with
        | .ok i => .ok (i, rest')
        | .error e => .error e
      | _ => .error .truncated
    else
      match decodeWord Config.strictReservedFields (wordOfBytes b0 b1) 0#16 with
      | .ok i => .ok (i, rest)
      | .error e => .error e
  | _ => .error .truncated

/-- The bytes, in memory order, of an instruction whose bits are numbered as spec/opcode_table.json numbers them: the
first word is bits 15:0 of `w`, LDA's second word bits 31:16; bits from `nbits` on are 0. -/
def tableBytes (nbits w : Nat) : List Byte :=
  bytesOfWord (BitVec.ofNat 16 (w % 2 ^ nbits)) ++ bytesOfWord (BitVec.ofNat 16 (w % 2 ^ nbits / 65536))

/-- The instruction the decoder reads from an opcode-table word. -/
def decodeTableWord (nbits w : Nat) : Option Instr :=
  match decode (tableBytes nbits w) with
  | .ok (i, _) => some i
  | .error _ => none

/-! ## The encoder (formats of R82) -/

/-- Format `RRM`: `ooooo rrrr ssss mmm`. -/
def encRRM (op : BitVec 5) (r1 r2 : Reg) (mode : BitVec 3) : Word := op ++ fieldOfReg r1 ++ fieldOfReg r2 ++ mode
/-- Format `RM`: `ooooo rrrr 0000 mmm`. -/
def encRM (op : BitVec 5) (r1 : Reg) (mode : BitVec 3) : Word := op ++ fieldOfReg r1 ++ 0b0000#4 ++ mode
/-- Formats `I7` and, with seven zeros, `A16` (first word) and `R`: `ooooo dddd iiiiiii`. -/
def encI7 (op : BitVec 5) (r1 : Reg) (low : BitVec 7) : Word := op ++ fieldOfReg r1 ++ low
/-- Formats `I11` and, with eleven constant bits, `Z`: `ooooo iiiiiiiiiii`. -/
def encI11 (op : BitVec 5) (low : BitVec 11) : Word := op ++ low
/-- Format `I9C`: `ooooo iiiiiiiii cc`. -/
def encI9C (op : BitVec 5) (immed9 : BitVec 9) (cc : BitVec 2) : Word := op ++ immed9 ++ cc
/-- Format `RC`: `ooooo rrrr 00000 cc`. -/
def encRC (op : BitVec 5) (r1 : Reg) (cc : BitVec 2) : Word := op ++ fieldOfReg r1 ++ 0b00000#5 ++ cc
/-- Format `V6`: `ooooo vvvvvv 00000`. -/
def encV6 (op : BitVec 5) (vect6 : BitVec 6) : Word := op ++ vect6 ++ 0b00000#5
/-- Format `P6`: `ooooo rrrr pppppp f`. -/
def encP6 (op : BitVec 5) (r1 : Reg) (port : Nat) (dir : BitVec 1) : Word :=
  op ++ fieldOfReg r1 ++ BitVec.ofNat 6 port ++ dir
/-- Format `Q8`: `ooooo qqqqqqqq fff`. -/
def encQ8 (op : BitVec 5) (irq8 : Byte) (f : BitVec 3) : Word := op ++ irq8 ++ f

/-- The words of a well-formed instruction, the first word first (R82, R83). -/
def encode : Instr → List Word
  | .ldi d imm => [encI7 0b00001#5 d imm]
  | .lda d v => [encI7 0b00010#5 d 0b0000000#7, v]
  | .ldbReg d a => [encRRM 0b00011#5 d a 0b000#3]
  | .ldbBase d a => [encRRM 0b00011#5 d a 0b001#3]
  | .ldbIdx d => [encRRM 0b00011#5 d Reg.ip0 0b010#3]
  | .ldbInd d a => [encRRM 0b00011#5 d a 0b011#3]
  | .ldwReg d a => [encRRM 0b00100#5 d a 0b000#3]
  | .ldwBase d a => [encRRM 0b00100#5 d a 0b001#3]
  | .ldwIdx d => [encRRM 0b00100#5 d Reg.ip0 0b010#3]
  | .ldwInd d a => [encRRM 0b00100#5 d a 0b011#3]
  | .mov d s => [encRRM 0b00100#5 d s 0b100#3]
  | .stbReg s a => [encRRM 0b00101#5 s a 0b000#3]
  | .stbBase s a => [encRRM 0b00101#5 s a 0b001#3]
  | .stbIdx s => [encRRM 0b00101#5 s Reg.ip1 0b010#3]
  | .stbInd s a => [encRRM 0b00101#5 s a 0b011#3]
  | .stwReg s a => [encRRM 0b00110#5 s a 0b000#3]
  | .stwBase s a => [encRRM 0b00110#5 s a 0b001#3]
  | .stwIdx s => [encRRM 0b00110#5 s Reg.ip1 0b010#3]
  | .stwInd s a => [encRRM 0b00110#5 s a 0b011#3]
  | .pushb s => [encRM 0b00111#5 s 0b000#3]
  | .popb d => [encRM 0b00111#5 d 0b001#3]
  | .pushw s => [encRM 0b00111#5 s 0b010#3]
  | .popw d => [encRM 0b00111#5 d 0b011#3]
  | .add d s => [encRRM 0b01001#5 d s 0b000#3]
  | .sub d s => [encRRM 0b01001#5 d s 0b001#3]
  | .mul d s => [encRRM 0b01001#5 d s 0b010#3]
  | .div d s => [encRRM 0b01001#5 d s 0b011#3]
  | .bitAnd d s => [encRRM 0b01001#5 d s 0b100#3]
  | .bitOr d s => [encRRM 0b01001#5 d s 0b101#3]
  | .bitXor d s => [encRRM 0b01001#5 d s 0b110#3]
  | .bitNot d => [encRM 0b01001#5 d 0b111#3]
  | .shl d s => [encRRM 0b01000#5 d s 0b000#3]
  | .shr d s => [encRRM 0b01010#5 d s 0b000#3]
  | .brImm off => [encI11 0b10000#5 off]
  | .brReg r => [encI7 0b10001#5 r 0b0000000#7]
  | .brnImm off => [encI9C 0b10010#5 off 0b00#2]
  | .brzImm off => [encI9C 0b10010#5 off 0b01#2]
  | .brcImm off => [encI9C 0b10010#5 off 0b10#2]
  | .broImm off => [encI9C 0b10010#5 off 0b11#2]
  | .brnReg r => [encRC 0b10011#5 r 0b00#2]
  | .brzReg r => [encRC 0b10011#5 r 0b01#2]
  | .brcReg r => [encRC 0b10011#5 r 0b10#2]
  | .broReg r => [encRC 0b10011#5 r 0b11#2]
  | .jsr r => [encI7 0b10100#5 r 0b0000000#7]
  | .jsrn r => [encRC 0b10101#5 r 0b00#2]
  | .jsrz r => [encRC 0b10101#5 r 0b01#2]
  | .jsrc r => [encRC 0b10101#5 r 0b10#2]
  | .jsro r => [encRC 0b10101#5 r 0b11#2]
  | .trap v => [encV6 0b10110#5 v]
  | .ret => [encI11 0b10111#5 0b00000000000#11]
  | .reti => [encI11 0b10111#5 0b00000000001#11]
  | .portIn d p => [encP6 0b11000#5 d p 0b0#1]
  | .portOut s p => [encP6 0b11000#5 s p 0b1#1]
  | .ei m => [encQ8 0b11001#5 m 0b000#3]
  | .di m => [encQ8 0b11001#5 m 0b001#3]
  | .halt => [encI11 0b11010#5 0b00000000000#11]
  | .nop => [encI11 0b11011#5 0b00000000000#11]
  | .ldos off => [encI11 0b11100#5 off]
  | .ldro off => [encI11 0b11101#5 off]

/-- The bytes of a well-formed instruction in memory order (R50, R83). -/
def encodeBytes (i : Instr) : List Byte := (encode i).flatMap bytesOfWord

end Sys2Proof
end

