-- ==== Sys2Proof/Machine/State.lean ====
section
/-! DEFINITION. The state of the SC-2 (spec/10_state.md), the reasons a step stops, and the state after reset. -/

namespace Sys2Proof.Machine

/-- Main memory `M` (R35): what has been listed of the 65536 bytes, as (address, byte) pairs. An address that is not
listed holds no value the model knows; a read there gives the free value `Config.initMem` (R40, log 3). -/
abbrev Memory := List Host.Cell

/-- The canonical form: addresses strictly rising, all below 65536 (R35). -/
abbrev Memory.wf (m : Memory) : Prop := m.Pairwise (fun c d => c.1 < d.1) ∧ ∀ c ∈ m, c.1 < 65536

/-- Everything the spec gives the machine, and after it the fields that are the model's own. -/
structure State where
  /-- The sixteen working registers `$R0` to `$RF` (R20). -/
  regs : Vector Word 16
  /-- The program counter (R24). -/
  pc : Word
  /-- The instruction register: the first word of the last instruction fetched (R26). -/
  ir : Word
  /-- The status word: N, Z, C, O in bits 15 to 12, reserved 11:8, interrupt enables 7:0 (R27). -/
  sw : Word
  /-- The operating system boundary, written by LDOS (R31). -/
  osb : Word
  /-- The text boundary, written by LDRO (R32). -/
  txb : Word
  /-- The run bit: false stops the clock (R34). -/
  rb : Bool
  /-- The ALU's operand latch A (R33). -/
  aluA : Word
  /-- The ALU's operand latch B (R33). -/
  aluB : Word
  /-- The ALU's result latch R, wide enough for a product (R33; DESIGN CHOICE of the width, log 6). -/
  aluR : BitVec 32
  /-- Main memory (R35). -/
  mem : Memory
  /-- The eight interrupt request lines as they stand at this instruction boundary (R37, R256). -/
  irqLines : BitVec 8
  /-- The model's own: what passed between the CPU and the devices, the newest first (R213, R216, R256). -/
  events : List IoEvent
  /-- The model's own: how many instruction boundaries have passed, an argument of the free values. -/
  boundary : Nat
  /-- The model's own: the device side's request lines at the boundaries to come; free values follow its end (log 4). -/
  irqFeed : List (BitVec 8)
  /-- The model's own: the device side's answers to the INs to come; free values follow its end (log 4). -/
  portFeed : List Byte
  /-- The model's own: LDOS has executed; read by the protection policy only (R62, R270). -/
  osbLoaded : Bool
  /-- The model's own: LDRO has executed; read by the protection policy only (R62). -/
  txbLoaded : Bool
  deriving DecidableEq, Repr

/-- The two faults of the model (R251). In either the faulting instruction has written nothing. -/
inductive Fault where
  /-- Raised by the step: the word fetched at this address is no instruction (R99). Safe: the spec defines no effect. -/
  | reservedEncoding (word address : Word)
  /-- Raised by DIV at this address with a zero divisor (R154). Safe: the spec defines no effect. -/
  | divideByZero (address : Word)
  deriving DecidableEq, Repr

/-- The reasons the model gives no next state without a fault. -/
inductive Refusal where
  /-- Raised by an arm of `exec` for an instruction without a meaning; no arm does. Safe. -/
  | notModelled (mnemonic : String)
  /-- Raised by the step when RB is 0: there is no step until reset (R300, R302). Safe: nothing follows. -/
  | halted
  /-- Raised by the step under `refuseAfterBoundarySet` only, which is not the default (R62, R270). Safe. -/
  | protectionUnstated
  deriving DecidableEq, Repr

/-- The machine right after reset (R290 to R293): RB is 1, SW is 0, memory lists nothing. DESIGN CHOICE (log 1, 2, 5,
unsafe): `pc` and the registers for which the spec gives no value are 0, no line is requesting, no device answer is
scripted. -/
def State.reset : State where
  regs := Vector.replicate 16 0x0000#16
  pc := Config.resetPc
  ir := 0x0000#16
  sw := 0x0000#16
  osb := 0x0000#16
  txb := 0x0000#16
  rb := true
  aluA := 0x0000#16
  aluB := 0x0000#16
  aluR := 0x00000000#32
  mem := []
  irqLines := 0x00#8
  events := []
  boundary := 0
  irqFeed := []
  portFeed := []
  osbLoaded := false
  txbLoaded := false

end Sys2Proof.Machine
end

