-- ==== Sys2Proof/Machine/Ops.lean ====
section
/-! DEFINITION. The named operations over registers, memory, the stack, the status word and the devices, and taking
and leaving a trap or an interrupt. Every meaning is written over these. -/

namespace Sys2Proof.Machine

/-! ## Memory (spec/20_memory.md) -/

/-- What memory lists at an address. -/
def Memory.lookup : Memory → Nat → Option Byte
  | [], _ => none
  | (k, b) :: rest, a => if a = k then some b else Memory.lookup rest a

/-- The byte at an address: what is listed, else the free value of `INIT_MEM` (R66, R293, R40). -/
def Memory.readAt (m : Memory) (a : Nat) : Byte := (m.lookup a).getD (Config.initMem a)

/-- Store one byte, keeping the list in address order. -/
def Memory.writeAt : Memory → Nat → Byte → Memory
  | [], a, b => [(a, b)]
  | (k, c) :: rest, a, b =>
    if a < k then (a, b) :: (k, c) :: rest
    else if a = k then (a, b) :: rest
    else (k, c) :: Memory.writeAt rest a b

/-- `MemRead(a, 1)` (R51). -/
def State.readByte (s : State) (a : Word) : Byte := s.mem.readAt a.toNat

/-- `MemRead(a, 2)`: big endian, the second byte at `a + 1` modulo 65536, at any alignment (R51, R54, R56). -/
def State.readWord (s : State) (a : Word) : Word := wordOfBytes (s.readByte a) (s.readByte (a + 1))

/-- `MemWrite(a, 1, b)` (R51). -/
def State.writeByte (a : Word) (b : Byte) (s : State) : State := { s with mem := s.mem.writeAt a.toNat b }

/-- `MemWrite(a, 2, v)`: the high-order byte to `a`, then the low-order byte to `a + 1` modulo 65536 (R51, R56). -/
def State.writeWord (a v : Word) (s : State) : State := (s.writeByte a (hob v)).writeByte (a + 1) (lob v)

/-! ## Registers (spec/10_state.md) -/

/-- `x[i]` (R20). -/
def State.reg (s : State) (r : Reg) : Word := s.regs[r.val]

/-- `x[i] <- v` (R20). No register is hardwired (R22). -/
def State.setReg (r : Reg) (v : Word) (s : State) : State := { s with regs := s.regs.set r.val v }

/-- `x[i].lob <- b`: bits 15:8 keep their value (R11, R143). -/
def State.setLob (r : Reg) (b : Byte) (s : State) : State := s.setReg r (wordOfBytes (hob (s.reg r)) b)

/-- `pc <- t`: any 16-bit value is accepted (R191). -/
def State.setPc (t : Word) (s : State) : State := { s with pc := t }

/-- The value SW is read as: bits 11:8 read as 0 (R29). -/
def State.swValue (s : State) : Word := s.sw &&& 0xF0FF#16

/-- Write all of SW: bits 11:8 ignore the write (R29). -/
def State.setSw (v : Word) (s : State) : State := { s with sw := v &&& 0xF0FF#16 }

/-- `SW.IRQ`, bits 7:0: the enable mask (R27, R28). -/
def State.irqEnables (s : State) : BitVec 8 := s.sw.extractLsb' 0 8

/-- Write `SW.IRQ`; bits 15:8 are unchanged (R231, R232). -/
def State.setIrqEnables (m : BitVec 8) (s : State) : State := { s with sw := s.sw.extractLsb' 8 8 ++ m }

/-- LDOS's write of OSB (R31, R235), remembered for the protection policy (R62). -/
def State.loadOsb (v : Word) (s : State) : State := { s with osb := v, osbLoaded := true }

/-- LDRO's write of TXB (R32, R236), remembered for the protection policy (R62). -/
def State.loadTxb (v : Word) (s : State) : State := { s with txb := v, txbLoaded := true }

/-- `RB <- 0` (R34, R233). -/
def State.stopClock (s : State) : State := { s with rb := false }

/-- What an ALU instruction leaves in the latches A, B and R (R33, R150). -/
def State.latchAlu (a b : Word) (r : BitVec 32) (s : State) : State := { s with aluA := a, aluB := b, aluR := r }

/-! ## The stack (R140 to R142) -/

/-- `PUSHB`'s store: SP is decremented first (R131, R142). -/
def State.pushByte (b : Byte) (s : State) : State :=
  (s.setReg Reg.sp (s.reg Reg.sp - 1)).writeByte (s.reg Reg.sp - 1) b

/-- `PUSHW(v)`: `SP <- SP - 2; MemWrite(SP, 2, v)` (R140). -/
def State.pushWord (v : Word) (s : State) : State :=
  (s.setReg Reg.sp (s.reg Reg.sp - 2)).writeWord (s.reg Reg.sp - 2) v

/-- The byte at the top of the stack (R132). -/
def State.topByte (s : State) : Byte := s.readByte (s.reg Reg.sp)

/-- The word at the top of the stack, what `POPW()` returns (R141). -/
def State.topWord (s : State) : Word := s.readWord (s.reg Reg.sp)

/-- The pointer update of a pop of `n` bytes (R132, R141). -/
def State.dropBytes (n : Word) (s : State) : State := s.setReg Reg.sp (s.reg Reg.sp + n)

/-! ## The devices (spec/43_io.md) -/

/-- The byte the device side answers to the next read of a port: the scripted answer, else a free value (R212, R216,
R221). -/
def State.portAnswer (s : State) (port : Nat) : Byte :=
  match s.portFeed with
  | b :: _ => b
  | [] => Config.portByte s.boundary s.events port

/-- `IORead(p)`'s effect: the answer is used up and the read enters the history (R212, R216). -/
def State.afterPortRead (port : Nat) (s : State) : State :=
  { s with portFeed := s.portFeed.tail, events := .read port (s.portAnswer port) :: s.events }

/-- `IOWrite(p, b)`: the pair enters the history, in program order (R213, R69). -/
def State.writePort (port : Nat) (b : Byte) (s : State) : State := { s with events := .write port b :: s.events }

/-! ## Traps and interrupts (spec/60_exceptions.md) -/

/-- The address of the interrupt vector table (R6, R255). -/
def ivtBase : Word := 0x2100#16

/-- `IVT_ENTRY`: the table of entry addresses as printed, with its step from 0x2108 to 0x2110 (R255, D22). -/
def ivtEntry (line : Fin 8) : Word :=
  (#v[0x2100#16, 0x2102#16, 0x2104#16, 0x2106#16, 0x2108#16, 0x2110#16, 0x2112#16, 0x2114#16])[line.val]

/-- Where control goes for a table entry: to its address, or, with `TRAP_VECTOR_INDIRECT`, to the address stored there
(R187, R258). -/
def State.vectorTarget (indirect : Bool) (entry : Word) (s : State) : Word :=
  if indirect then s.readWord entry else entry

/-- The frame a trap and an interrupt push: `pc`, then SW with its reserved bits 0 (R187, R258, R265). -/
def State.pushFrame (s : State) : State := (s.pushWord s.pc).pushWord s.swValue

/-- TAKING A TRAP OR AN INTERRUPT: push the frame, mask all lines when told to, and enter the table at `entry`. TRAP never
masks (R187); an interrupt masks under `IRQ_AUTO_MASK` only (R258, R259). -/
def State.enterVector (entry : Word) (mask : Bool) (s : State) : State :=
  let framed := s.pushFrame
  let masked := if mask then framed.setIrqEnables 0#8 else framed
  masked.setPc (masked.vectorTarget Config.trapVectorIndirect entry)

/-- RETURN FROM A TRAP OR AN INTERRUPT: `SW <- POPW() AND 0xF0FF`, then `pc <- POPW()` (R189, R263). -/
def State.leaveVector (s : State) : State :=
  let popped := (s.dropBytes 2).setSw s.topWord
  (popped.dropBytes 2).setPc popped.topWord

/-- The line an interrupt is taken for at this boundary: the lowest that is both enabled and requesting (R257, R260). -/
def State.pendingLine (s : State) : Option (Fin 8) :=
  [(0 : Fin 8), 1, 2, 3, 4, 5, 6, 7].find? fun n => s.irqEnables.getLsbD n.val && s.irqLines.getLsbD n.val

/-- Interrupt entry for a line: the shared entry at the line's table address, observed by the device side (R256, R258). -/
def State.takeInterrupt (line : Fin 8) (s : State) : State :=
  let entered := s.enterVector (ivtEntry line) Config.irqAutoMask
  { entered with events := .entry line :: entered.events }

/-- The request lines the device side shows at the next boundary: the scripted sample, else a free value (R256). -/
def State.nextLines (s : State) : BitVec 8 :=
  match s.irqFeed with
  | l :: _ => l
  | [] => Config.irqSample (s.boundary + 1) s.events

/-- Pass to the next instruction boundary: the request lines are sampled anew (R256, R257). -/
def State.nextBoundary (s : State) : State :=
  { s with boundary := s.boundary + 1, irqLines := s.nextLines, irqFeed := s.irqFeed.tail }

/-- A launch (R294): `RESET_PC`, `INIT_MEM` and the device side as data, over the state after reset. -/
def State.launch (resetPc : Word) (image : List (Word × Byte)) (irqFeed : List (BitVec 8)) (portFeed : List Byte) : State :=
  { State.reset with
    pc := resetPc
    mem := image.foldl (fun m c => m.writeAt c.1.toNat c.2) []
    irqFeed := irqFeed
    portFeed := portFeed }

end Sys2Proof.Machine
end

