-- ==== Sys2Proof/Machine/Flags.lean ====
section
/-! DEFINITION. The condition codes: their places in SW, the conditions the control instructions test, and the result
and flags of each ALU instruction (spec/41_alu.md R150 to R163). -/

namespace Sys2Proof.Machine

/-- Values for the four condition codes (R27). -/
structure Flags where
  /-- negative -/
  n : Bool
  /-- zero -/
  z : Bool
  /-- carry out -/
  c : Bool
  /-- overflow -/
  o : Bool
  deriving DecidableEq, Repr

/-- `SW.N` = `SW[15]` (R27). -/
def State.flagN (s : State) : Bool := s.sw.getLsbD 15
/-- `SW.Z` = `SW[14]` (R27). -/
def State.flagZ (s : State) : Bool := s.sw.getLsbD 14
/-- `SW.C` = `SW[13]` (R27). -/
def State.flagC (s : State) : Bool := s.sw.getLsbD 13
/-- `SW.O` = `SW[12]` (R27). -/
def State.flagO (s : State) : Bool := s.sw.getLsbD 12

/-- The four condition codes of a state. -/
def State.flags (s : State) : Flags := ⟨s.flagN, s.flagZ, s.flagC, s.flagO⟩

/-- `SetFlags(n, z, c, o)`: bits 15 to 12; all other bits of SW are unchanged (R161). -/
def State.setFlags (f : Flags) (s : State) : State :=
  { s with sw := BitVec.ofBool f.n ++ BitVec.ofBool f.z ++ BitVec.ofBool f.c ++ BitVec.ofBool f.o ++ s.sw.extractLsb' 0 12 }

/-- The conditions a branch or a call tests (R89). -/
inductive Cond where
  /-- `cc` 00 -/
  | n
  /-- `cc` 01 -/
  | z
  /-- `cc` 10 -/
  | c
  /-- `cc` 11 -/
  | o
  deriving DecidableEq, Repr

/-- `Cond(cc)` (R190). -/
def State.cond (cc : Cond) (s : State) : Bool :=
  match cc with
  | .n => s.flagN
  | .z => s.flagZ
  | .c => s.flagC
  | .o => s.flagO

/-- A 16-bit result with its flags. -/
structure AluResult where
  /-- the destination's new value -/
  value : Word
  /-- the condition codes -/
  flags : Flags
  deriving DecidableEq, Repr

/-- The result of MUL or DIV: `hi` for `$R8`, `lo` for `$R9`, with its flags (R23). -/
structure WideResult where
  /-- high word of the product, or the quotient -/
  hi : Word
  /-- low word of the product, or the remainder -/
  lo : Word
  /-- the condition codes -/
  flags : Flags
  deriving DecidableEq, Repr

/-- A result with N and Z by `NZ16` (R161) and the given C and O. -/
def AluResult.ofValue (r : Word) (c o : Bool) : AluResult := ⟨r, ⟨r.msb, r == 0#16, c, o⟩⟩

/-- ADD (R151): the 17-bit sum, C its carry, O two's-complement overflow. -/
def addResult (a b : Word) : AluResult :=
  let t := a.toNat + b.toNat
  let r := BitVec.ofNat 16 t
  AluResult.ofValue r (t.testBit 16) (a.msb == b.msb && r.msb != a.msb)

/-- SUB (R152): `A + NOT B + 1`; C is that adder's carry, or with `SUB_CARRY_IS_ADDER_CARRY` false its complement. -/
def subResult (carryIsAdderCarry : Bool) (a b : Word) : AluResult :=
  let t := a.toNat + (~~~b).toNat + 1
  let r := BitVec.ofNat 16 t
  AluResult.ofValue r (if carryIsAdderCarry then t.testBit 16 else !t.testBit 16) (a.msb != b.msb && r.msb != a.msb)

/-- MUL (R153): the exact product in 32 bits; the flags describe the product. -/
def mulResult (signed : Bool) (a b : Word) : WideResult :=
  let p : BitVec 32 := if signed then BitVec.ofInt 32 (a.toInt * b.toInt) else BitVec.ofNat 32 (a.toNat * b.toNat)
  ⟨p.extractLsb' 16 16, p.extractLsb' 0 16, ⟨p.msb, p == 0#32, false, false⟩⟩

/-- DIV by a nonzero divisor (R154): the quotient rounded toward zero and the remainder with the dividend's sign (or the
unsigned ones); the flags describe the quotient, O only -32768 / -1. -/
def divResult (signed : Bool) (a b : Word) : WideResult :=
  let x : Int := if signed then a.toInt else a.toNat
  let y : Int := if signed then b.toInt else b.toNat
  let q := x.tdiv y
  let m := x - q * y
  let hi := BitVec.ofInt 16 q
  ⟨hi, BitVec.ofInt 16 m, ⟨hi.msb, hi == 0#16, false, signed && decide (x = -32768 ∧ y = -1)⟩⟩

/-- AND (R155). -/
def andResult (a b : Word) : AluResult := AluResult.ofValue (a &&& b) false false
/-- OR (R156). -/
def orResult (a b : Word) : AluResult := AluResult.ofValue (a ||| b) false false
/-- XOR (R157). -/
def xorResult (a b : Word) : AluResult := AluResult.ofValue (a ^^^ b) false false
/-- NOT (R158). -/
def notResult (a : Word) : AluResult := AluResult.ofValue (~~~a) false false

/-- The left shift by one: C is the bit shifted out (R159). -/
def shlResult (b : Word) : AluResult := AluResult.ofValue (b.extractLsb' 0 15 ++ 0#1) b.msb false

/-- The right shift by one, logical or arithmetic: C is the bit shifted out (R160). -/
def shrResult (arithmetic : Bool) (b : Word) : AluResult :=
  AluResult.ofValue (BitVec.ofBool (arithmetic && b.msb) ++ b.extractLsb' 1 15) (b.getLsbD 0) false

/-- Write a 16-bit ALU result: latches, destination, flags (R33, R150). The latch R holds the result as a number. -/
def State.writeAlu (a b : Word) (d : Reg) (r : AluResult) (s : State) : State :=
  ((s.latchAlu a b (r.value.setWidth 32)).setReg d r.value).setFlags r.flags

/-- An ALU instruction with fields `d` and `s`: both registers are latched, then the result is written (R150). -/
def State.aluTwo (f : Word → Word → AluResult) (d r : Reg) (s : State) : State :=
  s.writeAlu (s.reg d) (s.reg r) d (f (s.reg d) (s.reg r))

/-- An ALU instruction with one register: B keeps its value (R158; DEDUCED, log 6). -/
def State.aluOne (f : Word → AluResult) (d : Reg) (s : State) : State :=
  s.writeAlu (s.reg d) s.aluB d (f (s.reg d))

/-- MUL and DIV: both operands are latched, then `$R8` and `$R9` are written from the two halves of the latch R
(R23, R33, R150; DEDUCED, log 6). -/
def State.aluWide (f : Word → Word → WideResult) (o1 o2 : Reg) (s : State) : State :=
  let r := f (s.reg o1) (s.reg o2)
  (((s.latchAlu (s.reg o1) (s.reg o2) (r.hi ++ r.lo)).setReg Reg.r8 r.hi).setReg Reg.r9 r.lo).setFlags r.flags

end Sys2Proof.Machine
end

