-- ==== Sys2Proof/Machine/Alu.lean ====
section
/-! DEFINITION. The ALU instructions (spec/41_alu.md): each writes all four condition codes (R150). -/

namespace Sys2Proof.Machine

/-- ADD (R151). -/
def execAdd (d r : Reg) (s : State) : Host.Outcome State Fault Refusal := .next (s.aluTwo addResult d r)
/-- SUB (R152). -/
def execSub (d r : Reg) (s : State) : Host.Outcome State Fault Refusal :=
  .next (s.aluTwo (subResult Config.subCarryIsAdderCarry) d r)
/-- MUL (R153). -/
def execMul (o1 o2 : Reg) (s : State) : Host.Outcome State Fault Refusal :=
  .next (s.aluWide (mulResult Config.mulDivSigned) o1 o2)
/-- DIV (R154): a zero divisor is the fault `DivideByZero` at the instruction's address (R251). -/
def execDiv (o1 o2 : Reg) (s : State) : Host.Outcome State Fault Refusal :=
  if s.reg o2 = 0#16 then .fault (.divideByZero (s.pc - 2))
  else .next (s.aluWide (divResult Config.mulDivSigned) o1 o2)
/-- AND (R155). -/
def execAnd (d r : Reg) (s : State) : Host.Outcome State Fault Refusal := .next (s.aluTwo andResult d r)
/-- OR (R156). -/
def execOr (d r : Reg) (s : State) : Host.Outcome State Fault Refusal := .next (s.aluTwo orResult d r)
/-- XOR (R157). -/
def execXor (d r : Reg) (s : State) : Host.Outcome State Fault Refusal := .next (s.aluTwo xorResult d r)
/-- NOT (R158). -/
def execNot (d : Reg) (s : State) : Host.Outcome State Fault Refusal := .next (s.aluOne notResult d)
/-- SHL (R159): `$Rs` is the value shifted; `SHIFT_COMMENTS_AS_PRINTED` exchanges it with SHR. -/
def execShl (d r : Reg) (s : State) : Host.Outcome State Fault Refusal :=
  .next (s.aluTwo (fun _ b => if Config.shiftCommentsAsPrinted then shrResult Config.shrArithmetic b else shlResult b) d r)
/-- SHR (R160): `$Rs` is the value shifted; `SHIFT_COMMENTS_AS_PRINTED` exchanges it with SHL. -/
def execShr (d r : Reg) (s : State) : Host.Outcome State Fault Refusal :=
  .next (s.aluTwo (fun _ b => if Config.shiftCommentsAsPrinted then shlResult b else shrResult Config.shrArithmetic b) d r)

end Sys2Proof.Machine
end

