-- ==== Sys2Proof/Machine/Operands.lean ====
section
/-! DEFINITION. The operand forms: sign extension (spec/30_encoding.md R84), the effective addresses of the four
load and store modes (spec/40_data_movement.md R111) and the loads and stores over them. -/

namespace Sys2Proof.Machine

/-- `sext_16(v, n)` (R11): the field's top bit is copied into the upper bits. -/
def sext16 {n : Nat} (v : BitVec n) : Word := v.signExtend 16

/-- A PC-relative target: the address of the next instruction plus the signed byte offset, modulo 65536 (R193). -/
def State.relative {n : Nat} (off : BitVec n) (s : State) : Word := s.pc + sext16 off

/-- The addressing modes of LDB, LDW, STB and STW (R87, R111). -/
inductive Mode where
  /-- `mode` 000: the address is the register. -/
  | register
  /-- `mode` 001: the address is BP plus the register. -/
  | base
  /-- `mode` 010: the address is the index register, increased afterwards by the access size. -/
  | index
  /-- `mode` 011: the address is the big-endian word stored at the address in the register. -/
  | indirect
  deriving DecidableEq, Repr

/-- `EA(mode, a)`, from the state before the instruction (R111, R12). In index mode `a` is the index register: IP0 for
loads, IP1 for stores (R87). -/
def State.ea (m : Mode) (a : Reg) (s : State) : Word :=
  match m with
  | .register => s.reg a
  | .base => s.reg Reg.bp + s.reg a
  | .index => s.reg a
  | .indirect => s.readWord (s.reg a)

/-- The pointer update: in index mode the index register is increased by the access size, else nothing (R111). -/
def State.bump (m : Mode) (a : Reg) (size : Word) (s : State) : State :=
  match m with
  | .index => s.setReg a (s.reg a + size)
  | .register | .base | .indirect => s

/-- LDB's effect in any mode: the pointer update, then the low byte of the destination (R12, R114 to R120, R143). -/
def State.loadByte (m : Mode) (d a : Reg) (s : State) : State := (s.bump m a 1).setLob d (s.readByte (s.ea m a))

/-- LDW's effect in any mode: the pointer update, then the destination (R12, R115 to R121). -/
def State.loadWord (m : Mode) (d a : Reg) (s : State) : State := (s.bump m a 2).setReg d (s.readWord (s.ea m a))

/-- STB's effect in any mode: the store, then the pointer update (R12, R123 to R129). -/
def State.storeByte (m : Mode) (r a : Reg) (s : State) : State := (s.writeByte (s.ea m a) (lob (s.reg r))).bump m a 1

/-- STW's effect in any mode: the store, then the pointer update (R12, R124 to R130). -/
def State.storeWord (m : Mode) (r a : Reg) (s : State) : State := (s.writeWord (s.ea m a) (s.reg r)).bump m a 2

end Sys2Proof.Machine
end

