-- ==== Sys2Proof/Machine/Control.lean ====
section
/-! DEFINITION. The control instructions (spec/42_control.md). On entry `pc` is the instruction's address + 2: the base
of offsets and the return address (R180). -/

namespace Sys2Proof.Machine

/-- A branch taken when its condition is 1, else nothing (R190). -/
def State.branchIf (cc : Cond) (target : Word) (s : State) : State := if s.cond cc then s.setPc target else s

/-- `t = x[r]; PUSHW(pc); pc <- t` (R185). -/
def State.call (r : Reg) (s : State) : State := (s.pushWord s.pc).setPc (s.reg r)

/-- A call made when its condition is 1, else nothing, the push neither (R186). -/
def State.callIf (cc : Cond) (r : Reg) (s : State) : State := if s.cond cc then s.call r else s

/-- BR immed11 (R181). -/
def execBrImm (off : BitVec 11) (s : State) : Host.Outcome State Fault Refusal := .next (s.setPc (s.relative off))
/-- BR $Rr (R182). -/
def execBrReg (r : Reg) (s : State) : Host.Outcome State Fault Refusal := .next (s.setPc (s.reg r))
/-- BRn immed9 (R183). -/
def execBrnImm (off : BitVec 9) (s : State) : Host.Outcome State Fault Refusal := .next (s.branchIf .n (s.relative off))
/-- BRz immed9 (R183). -/
def execBrzImm (off : BitVec 9) (s : State) : Host.Outcome State Fault Refusal := .next (s.branchIf .z (s.relative off))
/-- BRc immed9 (R183). -/
def execBrcImm (off : BitVec 9) (s : State) : Host.Outcome State Fault Refusal := .next (s.branchIf .c (s.relative off))
/-- BRo immed9 (R183). -/
def execBroImm (off : BitVec 9) (s : State) : Host.Outcome State Fault Refusal := .next (s.branchIf .o (s.relative off))
/-- BRn $Rr (R184). -/
def execBrnReg (r : Reg) (s : State) : Host.Outcome State Fault Refusal := .next (s.branchIf .n (s.reg r))
/-- BRz $Rr (R184). -/
def execBrzReg (r : Reg) (s : State) : Host.Outcome State Fault Refusal := .next (s.branchIf .z (s.reg r))
/-- BRc $Rr (R184). -/
def execBrcReg (r : Reg) (s : State) : Host.Outcome State Fault Refusal := .next (s.branchIf .c (s.reg r))
/-- BRo $Rr (R184). -/
def execBroReg (r : Reg) (s : State) : Host.Outcome State Fault Refusal := .next (s.branchIf .o (s.reg r))
/-- JSR (R185). -/
def execJsr (r : Reg) (s : State) : Host.Outcome State Fault Refusal := .next (s.call r)
/-- JSRn (R186). -/
def execJsrn (r : Reg) (s : State) : Host.Outcome State Fault Refusal := .next (s.callIf .n r)
/-- JSRz (R186). -/
def execJsrz (r : Reg) (s : State) : Host.Outcome State Fault Refusal := .next (s.callIf .z r)
/-- JSRc (R186). -/
def execJsrc (r : Reg) (s : State) : Host.Outcome State Fault Refusal := .next (s.callIf .c r)
/-- JSRo (R186). -/
def execJsro (r : Reg) (s : State) : Host.Outcome State Fault Refusal := .next (s.callIf .o r)
/-- TRAP (R187, R252): the shared entry at 0x2100 plus the signed byte offset; SW is not changed. -/
def execTrap (v : BitVec 6) (s : State) : Host.Outcome State Fault Refusal :=
  .next (s.enterVector (ivtBase + sext16 v) false)
/-- RET (R188). -/
def execRet (s : State) : Host.Outcome State Fault Refusal := .next ((s.dropBytes 2).setPc s.topWord)
/-- RETI (R189): the shared return. -/
def execReti (s : State) : Host.Outcome State Fault Refusal := .next s.leaveVector

end Sys2Proof.Machine
end

