-- ==== Sys2Proof/Machine/DataMovement.lean ====
section
/-! DEFINITION. The data movement instructions (spec/40_data_movement.md). On entry `pc` is the address after the
instruction's first word (R24). None changes SW, none can fault (R110). -/

namespace Sys2Proof.Machine

/-- LDI (R112). -/
def execLdi (d : Reg) (imm : BitVec 7) (s : State) : Host.Outcome State Fault Refusal := .next (s.setReg d (sext16 imm))

/-- LDA (R113): `pc` steps over the operand word. -/
def execLda (d : Reg) (v : Word) (s : State) : Host.Outcome State Fault Refusal := .next ((s.setPc (s.pc + 2)).setReg d v)

/-- LDB, register mode (R114). -/
def execLdbReg (d a : Reg) (s : State) : Host.Outcome State Fault Refusal := .next (s.loadByte .register d a)
/-- LDB, base-relative mode (R116). -/
def execLdbBase (d a : Reg) (s : State) : Host.Outcome State Fault Refusal := .next (s.loadByte .base d a)
/-- LDB, index mode through IP0 (R118). -/
def execLdbIdx (d : Reg) (s : State) : Host.Outcome State Fault Refusal := .next (s.loadByte .index d Reg.ip0)
/-- LDB, indirect mode (R120). -/
def execLdbInd (d a : Reg) (s : State) : Host.Outcome State Fault Refusal := .next (s.loadByte .indirect d a)

/-- LDW, register mode (R115). -/
def execLdwReg (d a : Reg) (s : State) : Host.Outcome State Fault Refusal := .next (s.loadWord .register d a)
/-- LDW, base-relative mode (R117). -/
def execLdwBase (d a : Reg) (s : State) : Host.Outcome State Fault Refusal := .next (s.loadWord .base d a)
/-- LDW, index mode through IP0 (R119). -/
def execLdwIdx (d : Reg) (s : State) : Host.Outcome State Fault Refusal := .next (s.loadWord .index d Reg.ip0)
/-- LDW, indirect mode (R121). -/
def execLdwInd (d a : Reg) (s : State) : Host.Outcome State Fault Refusal := .next (s.loadWord .indirect d a)

/-- MOV (R122). -/
def execMov (d r : Reg) (s : State) : Host.Outcome State Fault Refusal := .next (s.setReg d (s.reg r))

/-- STB, register mode (R123). -/
def execStbReg (r a : Reg) (s : State) : Host.Outcome State Fault Refusal := .next (s.storeByte .register r a)
/-- STB, base-relative mode (R125). -/
def execStbBase (r a : Reg) (s : State) : Host.Outcome State Fault Refusal := .next (s.storeByte .base r a)
/-- STB, index mode through IP1 (R127). -/
def execStbIdx (r : Reg) (s : State) : Host.Outcome State Fault Refusal := .next (s.storeByte .index r Reg.ip1)
/-- STB, indirect mode (R129). -/
def execStbInd (r a : Reg) (s : State) : Host.Outcome State Fault Refusal := .next (s.storeByte .indirect r a)

/-- STW, register mode (R124). -/
def execStwReg (r a : Reg) (s : State) : Host.Outcome State Fault Refusal := .next (s.storeWord .register r a)
/-- STW, base-relative mode (R126). -/
def execStwBase (r a : Reg) (s : State) : Host.Outcome State Fault Refusal := .next (s.storeWord .base r a)
/-- STW, index mode through IP1 (R128). -/
def execStwIdx (r : Reg) (s : State) : Host.Outcome State Fault Refusal := .next (s.storeWord .index r Reg.ip1)
/-- STW, indirect mode (R130). -/
def execStwInd (r a : Reg) (s : State) : Host.Outcome State Fault Refusal := .next (s.storeWord .indirect r a)

/-- PUSHB (R131). -/
def execPushb (r : Reg) (s : State) : Host.Outcome State Fault Refusal := .next (s.pushByte (lob (s.reg r)))
/-- POPB (R132): the pointer update, then the low byte of the destination. -/
def execPopb (d : Reg) (s : State) : Host.Outcome State Fault Refusal := .next ((s.dropBytes 1).setLob d s.topByte)
/-- PUSHW (R133). -/
def execPushw (r : Reg) (s : State) : Host.Outcome State Fault Refusal := .next (s.pushWord (s.reg r))
/-- POPW (R134): the pointer update, then the destination. -/
def execPopw (d : Reg) (s : State) : Host.Outcome State Fault Refusal := .next ((s.dropBytes 2).setReg d s.topWord)

end Sys2Proof.Machine
end

