-- ==== Sys2Proof/Machine/Io.lean ====
section
/-! DEFINITION. The I/O instructions (spec/43_io.md), executed unconditionally (R210). -/

namespace Sys2Proof.Machine

/-- IN (R214): the device's byte goes to the low byte of the destination. -/
def execPortIn (d : Reg) (port : Nat) (s : State) : Host.Outcome State Fault Refusal :=
  .next ((s.afterPortRead port).setLob d (s.portAnswer port))
/-- OUT (R215): the low byte of the source goes to the port. -/
def execPortOut (r : Reg) (port : Nat) (s : State) : Host.Outcome State Fault Refusal :=
  .next (s.writePort port (lob (s.reg r)))

end Sys2Proof.Machine
end

