-- ==== Sys2Proof/Machine/Misc.lean ====
section
/-! DEFINITION. The miscellaneous supervisor instructions (spec/44_misc.md), executed unconditionally (R230). -/

namespace Sys2Proof.Machine

/-- EI (R231): the operand's lines become enabled. -/
def execEi (m : Byte) (s : State) : Host.Outcome State Fault Refusal := .next (s.setIrqEnables (s.irqEnables ||| m))
/-- DI (R232): the operand is a keep-mask. -/
def execDi (m : Byte) (s : State) : Host.Outcome State Fault Refusal := .next (s.setIrqEnables (s.irqEnables &&& m))
/-- HALT (R233). -/
def execHalt (s : State) : Host.Outcome State Fault Refusal := .next s.stopClock
/-- NOP (R234): `pc` has advanced by the fetch; nothing else happens. -/
def execNop (s : State) : Host.Outcome State Fault Refusal := .next s
/-- LDOS (R235). -/
def execLdos (off : BitVec 11) (s : State) : Host.Outcome State Fault Refusal := .next (s.loadOsb (s.relative off))
/-- LDRO (R236). -/
def execLdro (off : BitVec 11) (s : State) : Host.Outcome State Fault Refusal := .next (s.loadTxb (s.relative off))

end Sys2Proof.Machine
end

