-- ==== Sys2Proof/Machine/Dispatch.lean ====
section
/-! DEFINITION. One arm for each instruction: a direct call of its meaning. -/

namespace Sys2Proof.Machine

/-- What an instruction does to the state it executes in, whose `pc` is already its address + 2 (R24). -/
def exec (i : Instr) (s : State) : Host.Outcome State Fault Refusal :=
  match i with
  | .ldi d imm => Sys2Proof.Machine.execLdi d imm s
  | .lda d v => Sys2Proof.Machine.execLda d v s
  | .ldbReg d a => Sys2Proof.Machine.execLdbReg d a s
  | .ldbBase d a => Sys2Proof.Machine.execLdbBase d a s
  | .ldbIdx d => Sys2Proof.Machine.execLdbIdx d s
  | .ldbInd d a => Sys2Proof.Machine.execLdbInd d a s
  | .ldwReg d a => Sys2Proof.Machine.execLdwReg d a s
  | .ldwBase d a => Sys2Proof.Machine.execLdwBase d a s
  | .ldwIdx d => Sys2Proof.Machine.execLdwIdx d s
  | .ldwInd d a => Sys2Proof.Machine.execLdwInd d a s
  | .mov d r => Sys2Proof.Machine.execMov d r s
  | .stbReg r a => Sys2Proof.Machine.execStbReg r a s
  | .stbBase r a => Sys2Proof.Machine.execStbBase r a s
  | .stbIdx r => Sys2Proof.Machine.execStbIdx r s
  | .stbInd r a => Sys2Proof.Machine.execStbInd r a s
  | .stwReg r a => Sys2Proof.Machine.execStwReg r a s
  | .stwBase r a => Sys2Proof.Machine.execStwBase r a s
  | .stwIdx r => Sys2Proof.Machine.execStwIdx r s
  | .stwInd r a => Sys2Proof.Machine.execStwInd r a s
  | .pushb r => Sys2Proof.Machine.execPushb r s
  | .popb d => Sys2Proof.Machine.execPopb d s
  | .pushw r => Sys2Proof.Machine.execPushw r s
  | .popw d => Sys2Proof.Machine.execPopw d s
  | .add d r => Sys2Proof.Machine.execAdd d r s
  | .sub d r => Sys2Proof.Machine.execSub d r s
  | .mul d r => Sys2Proof.Machine.execMul d r s
  | .div d r => Sys2Proof.Machine.execDiv d r s
  | .bitAnd d r => Sys2Proof.Machine.execAnd d r s
  | .bitOr d r => Sys2Proof.Machine.execOr d r s
  | .bitXor d r => Sys2Proof.Machine.execXor d r s
  | .bitNot d => Sys2Proof.Machine.execNot d s
  | .shl d r => Sys2Proof.Machine.execShl d r s
  | .shr d r => Sys2Proof.Machine.execShr d r s
  | .brImm off => Sys2Proof.Machine.execBrImm off s
  | .brReg r => Sys2Proof.Machine.execBrReg r s
  | .brnImm off => Sys2Proof.Machine.execBrnImm off s
  | .brzImm off => Sys2Proof.Machine.execBrzImm off s
  | .brcImm off => Sys2Proof.Machine.execBrcImm off s
  | .broImm off => Sys2Proof.Machine.execBroImm off s
  | .brnReg r => Sys2Proof.Machine.execBrnReg r s
  | .brzReg r => Sys2Proof.Machine.execBrzReg r s
  | .brcReg r => Sys2Proof.Machine.execBrcReg r s
  | .broReg r => Sys2Proof.Machine.execBroReg r s
  | .jsr r => Sys2Proof.Machine.execJsr r s
  | .jsrn r => Sys2Proof.Machine.execJsrn r s
  | .jsrz r => Sys2Proof.Machine.execJsrz r s
  | .jsrc r => Sys2Proof.Machine.execJsrc r s
  | .jsro r => Sys2Proof.Machine.execJsro r s
  | .trap v => Sys2Proof.Machine.execTrap v s
  | .ret => Sys2Proof.Machine.execRet s
  | .reti => Sys2Proof.Machine.execReti s
  | .portIn d port => Sys2Proof.Machine.execPortIn d port s
  | .portOut r port => Sys2Proof.Machine.execPortOut r port s
  | .ei m => Sys2Proof.Machine.execEi m s
  | .di m => Sys2Proof.Machine.execDi m s
  | .halt => Sys2Proof.Machine.execHalt s
  | .nop => Sys2Proof.Machine.execNop s
  | .ldos off => Sys2Proof.Machine.execLdos off s
  | .ldro off => Sys2Proof.Machine.execLdro off s

end Sys2Proof.Machine
end

