-- ==== Sys2Proof/Machine/Fetch.lean ====
section
/-! DEFINITION. Fetching an instruction (spec/70_reset_and_hazards.md R300) and placing one where the next fetch
reads it. -/

namespace Sys2Proof.Machine

/-- The four bytes from `pc` on, modulo 65536: as many as the longest instruction has (R52, R56, R80). -/
def State.fetchBytes (s : State) : List Byte :=
  [s.readByte s.pc, s.readByte (s.pc + 1), s.readByte (s.pc + 2), s.readByte (s.pc + 3)]

/-- The instruction at `pc`; LDA's operand word is the one at `pc + 2` (R83, R96, R300). -/
def State.fetchInstr (s : State) : Except DecodeError Instr :=
  match decode s.fetchBytes with
  | .ok (i, _) => .ok i
  | .error e => .error e

/-- The state an instruction executes in: IR holds its first word and `pc` is its address + 2 (R24, R26, R300). -/
def State.fetched (s : State) : State := { s with ir := s.readWord s.pc, pc := s.pc + 2 }

/-- Store bytes at consecutive addresses, modulo 65536. -/
def State.placeBytes : List Byte → Word → State → State
  | [], _, s => s
  | b :: rest, a, s => State.placeBytes rest (a + 1) (s.writeByte a b)

/-- Store a table instruction's bytes where the next step fetches: at `pc` (R300). -/
def State.placeInstr (nbits w : Nat) (s : State) : State := State.placeBytes (tableBytes nbits w) s.pc s

end Sys2Proof.Machine
end

