-- ==== Sys2Proof/Machine/Protection.lean ====
section
/-! DEFINITION. The protection policies of spec/20_memory.md R62 and spec/60_exceptions.md R270. Under the default,
`none`, nothing is ever refused. -/

namespace Sys2Proof.Machine

/-- The instructions printed under "Supervisor Mode Instructions" (R271). -/
def isSupervisor : Instr → Bool
  | .portIn _ _ | .portOut _ _ | .ei _ | .di _ | .halt | .nop | .ldos _ | .ldro _ => true
  | .ldi _ _ | .lda _ _ | .ldbReg _ _ | .ldbBase _ _ | .ldbIdx _ | .ldbInd _ _ => false
  | .ldwReg _ _ | .ldwBase _ _ | .ldwIdx _ | .ldwInd _ _ | .mov _ _ => false
  | .stbReg _ _ | .stbBase _ _ | .stbIdx _ | .stbInd _ _ => false
  | .stwReg _ _ | .stwBase _ _ | .stwIdx _ | .stwInd _ _ => false
  | .pushb _ | .popb _ | .pushw _ | .popw _ => false
  | .add _ _ | .sub _ _ | .mul _ _ | .div _ _ | .bitAnd _ _ | .bitOr _ _ | .bitXor _ _ => false
  | .bitNot _ | .shl _ _ | .shr _ _ => false
  | .brImm _ | .brReg _ | .brnImm _ | .brzImm _ | .brcImm _ | .broImm _ => false
  | .brnReg _ | .brzReg _ | .brcReg _ | .broReg _ => false
  | .jsr _ | .jsrn _ | .jsrz _ | .jsrc _ | .jsro _ | .trap _ | .ret | .reti => false

/-- Whether an instruction, executed in this state, stores to memory (R57). -/
def storesNow (i : Instr) (s : State) : Bool :=
  match i with
  | .stbReg _ _ | .stbBase _ _ | .stbIdx _ | .stbInd _ _ => true
  | .stwReg _ _ | .stwBase _ _ | .stwIdx _ | .stwInd _ _ => true
  | .pushb _ | .pushw _ | .jsr _ | .trap _ => true
  | .jsrn _ => s.cond .n
  | .jsrz _ => s.cond .z
  | .jsrc _ => s.cond .c
  | .jsro _ => s.cond .o
  | .ldi _ _ | .lda _ _ | .ldbReg _ _ | .ldbBase _ _ | .ldbIdx _ | .ldbInd _ _ => false
  | .ldwReg _ _ | .ldwBase _ _ | .ldwIdx _ | .ldwInd _ _ | .mov _ _ => false
  | .popb _ | .popw _ => false
  | .add _ _ | .sub _ _ | .mul _ _ | .div _ _ | .bitAnd _ _ | .bitOr _ _ | .bitXor _ _ => false
  | .bitNot _ | .shl _ _ | .shr _ _ => false
  | .brImm _ | .brReg _ | .brnImm _ | .brzImm _ | .brcImm _ | .broImm _ => false
  | .brnReg _ | .brzReg _ | .brcReg _ | .broReg _ | .ret | .reti => false
  | .portIn _ _ | .portOut _ _ | .ei _ | .di _ | .halt | .nop | .ldos _ | .ldro _ => false

/-- Whether the policy gives a store no meaning in this state (R62). -/
def refusesStore (policy : ProtectionPolicy) (s : State) : Bool :=
  match policy with
  | .none => false
  | .refuseAfterBoundarySet => s.osbLoaded || s.txbLoaded

/-- Whether the policy gives this instruction no meaning in this state (R62, R270). -/
def refusesInstr (policy : ProtectionPolicy) (i : Instr) (s : State) : Bool :=
  match policy with
  | .none => false
  | .refuseAfterBoundarySet => (storesNow i s && refusesStore .refuseAfterBoundarySet s) || (isSupervisor i && s.osbLoaded)

end Sys2Proof.Machine
end

