-- ==== Sys2Proof/Machine/Step.lean ====
section
/-! DEFINITION. One step of the CPU (spec/70_reset_and_hazards.md R300). -/

namespace Sys2Proof.Machine

/-- Apply a function to the state of a next outcome; a fault or a refusal stays. -/
def onNext (f : State → State) : Host.Outcome State Fault Refusal → Host.Outcome State Fault Refusal
  | .next s => .next (f s)
  | .fault r => .fault r
  | .refused r => .refused r

/-- Fetch, decode and execute; a reserved encoding faults before any effect (R261, R300). -/
def fetchExecute (s : State) : Host.Outcome State Fault Refusal :=
  match s.fetchInstr with
  | .error _ => .fault (.reservedEncoding (s.readWord s.pc) s.pc)
  | .ok i =>
    if refusesInstr Config.protectionPolicy i s.fetched then .refused .protectionUnstated
    else onNext State.nextBoundary (exec i s.fetched)

/-- One step: none when halted; an enabled requesting line is taken in preference to the fetch; else one instruction
(R257, R261, R300, R302). -/
def step (s : State) : Host.Outcome State Fault Refusal :=
  if s.rb then
    match s.pendingLine with
    | some n =>
      if refusesStore Config.protectionPolicy s then .refused .protectionUnstated
      else .next (s.takeInterrupt n).nextBoundary
    | none => fetchExecute s
  else .refused .halted

/-- The state with an opcode-table instruction stored at `pc`, where the next step fetches it. -/
def State.withFetchWord (s : State) (nbits w : Nat) : State := s.placeInstr nbits w

end Sys2Proof.Machine
end

