-- ==== Sys2Proof/Machine/Devices.lean ====
section
/-! DEFINITION. The eight devices, their numbers, port blocks and listed registers (spec/43_io.md R217, R218). The
spec gives the devices no behaviour: what they answer is the device side's (R216). -/

namespace Sys2Proof.Machine

/-- The eight devices, in the order of their numbers (R217). -/
inductive Device where
  /-- Timer 0 -/
  | pit0
  /-- A/D converter -/
  | adc
  /-- Timer 1 -/
  | pit1
  /-- Serial (COMM1) -/
  | sio1
  /-- Serial (COMM2) -/
  | sio2
  /-- Parallel -/
  | pio0
  /-- Video display -/
  | vid
  /-- Keyboard -/
  | kbd
  deriving DecidableEq, Repr

/-- The device's number, which is also its request line, its enable bit and its table entry (R217). -/
def Device.number : Device → Fin 8
  | .pit0 => 0
  | .adc => 1
  | .pit1 => 2
  | .sio1 => 3
  | .sio2 => 4
  | .pio0 => 5
  | .vid => 6
  | .kbd => 7

/-- The first port of the device's block of eight (R217). -/
def Device.basePort : Device → Nat
  | .pit0 => 0x00
  | .adc => 0x08
  | .pit1 => 0x10
  | .sio1 => 0x18
  | .sio2 => 0x20
  | .pio0 => 0x28
  | .vid => 0x30
  | .kbd => 0x38

/-- A device's table entry address (R217, R255). -/
def Device.vector (d : Device) : Word := ivtEntry d.number

/-- The one-byte registers the spec lists behind the ports (R218). -/
inductive PortRegister where
  /-- a timer's counter register -/
  | counter
  /-- a status register; bit 0 of KBD's is "character available" (R219), bit 0 of VID's is 0 for "clear to send" (R220) -/
  | status
  /-- a timer's "time int ctrl" -/
  | timerIntCtrl
  /-- a control register -/
  | ctrl
  /-- a data register (KBD's data0) -/
  | data
  /-- KBD's data1 -/
  | data1
  /-- ADC's channel -/
  | channel
  deriving DecidableEq, Repr

/-- The register behind a port, where the spec lists one (R218); elsewhere nothing is said of the port (R221). -/
def portRegister (port : Nat) : Option (Device × PortRegister) :=
  match port with
  | 0x00 => some (.pit0, .counter)
  | 0x01 => some (.pit0, .status)
  | 0x02 => some (.pit0, .timerIntCtrl)
  | 0x08 => some (.adc, .ctrl)
  | 0x09 => some (.adc, .status)
  | 0x0A => some (.adc, .data)
  | 0x0B => some (.adc, .channel)
  | 0x10 => some (.pit1, .counter)
  | 0x11 => some (.pit1, .status)
  | 0x12 => some (.pit1, .timerIntCtrl)
  | 0x28 => some (.pio0, .status)
  | 0x29 => some (.pio0, .ctrl)
  | 0x2A => some (.pio0, .data)
  | 0x30 => some (.vid, .status)
  | 0x31 => some (.vid, .ctrl)
  | 0x32 => some (.vid, .data)
  | 0x38 => some (.kbd, .status)
  | 0x39 => some (.kbd, .ctrl)
  | 0x3A => some (.kbd, .data)
  | 0x3B => some (.kbd, .data1)
  | _ => none

/-- The bytes OUT has delivered to a port, the newest first (R213). -/
def State.delivered (port : Nat) (s : State) : List Byte :=
  s.events.filterMap fun e =>
    match e with
    | .write p b => if p = port then some b else none
    | .read _ _ | .entry _ => none

end Sys2Proof.Machine
end

