-- ==== Sys2Proof/Machine/OpcodeTable.lean ====
section
/-! DEFINITION. The rows of spec/opcode_table.json (spec/30_encoding.md R105), transcribed from it and not from the decoder:
a word `w` matches a row when `(w AND mask) = pattern` (R96). -/

namespace Sys2Proof.Machine

/-- A row of the table. -/
structure OpcodeRow where
  /-- the row's mnemonic -/
  mnemonic : String
  /-- `match` -/
  pattern : Word
  /-- `mask`, with the must-be-zero bits of R97 -/
  mask : Word
  deriving DecidableEq, Repr

/-- A first word is an instruction of this row (R96, R105). -/
def OpcodeRow.accepts (r : OpcodeRow) (w : Word) : Bool := w &&& r.mask == r.pattern

/-- The rows of the group Data movement. -/
def dataRows : List OpcodeRow := [
  ⟨"LDI", 0x0800#16, 0xF800#16⟩,
  ⟨"LDA", 0x1000#16, 0xF87F#16⟩,
  ⟨"LDB", 0x1800#16, 0xF807#16⟩,
  ⟨"LDB", 0x1801#16, 0xF807#16⟩,
  ⟨"LDB", 0x1862#16, 0xF87F#16⟩,
  ⟨"LDB", 0x1803#16, 0xF807#16⟩,
  ⟨"LDW", 0x2000#16, 0xF807#16⟩,
  ⟨"LDW", 0x2001#16, 0xF807#16⟩,
  ⟨"LDW", 0x2062#16, 0xF87F#16⟩,
  ⟨"LDW", 0x2003#16, 0xF807#16⟩,
  ⟨"MOV", 0x2004#16, 0xF807#16⟩,
  ⟨"STB", 0x2800#16, 0xF807#16⟩,
  ⟨"STB", 0x2801#16, 0xF807#16⟩,
  ⟨"STB", 0x286A#16, 0xF87F#16⟩,
  ⟨"STB", 0x2803#16, 0xF807#16⟩,
  ⟨"STW", 0x3000#16, 0xF807#16⟩,
  ⟨"STW", 0x3001#16, 0xF807#16⟩,
  ⟨"STW", 0x306A#16, 0xF87F#16⟩,
  ⟨"STW", 0x3003#16, 0xF807#16⟩,
  ⟨"PUSHB", 0x3800#16, 0xF87F#16⟩,
  ⟨"POPB", 0x3801#16, 0xF87F#16⟩,
  ⟨"PUSHW", 0x3802#16, 0xF87F#16⟩,
  ⟨"POPW", 0x3803#16, 0xF87F#16⟩]

/-- The rows of the group ALU. -/
def aluRows : List OpcodeRow := [
  ⟨"ADD", 0x4800#16, 0xF807#16⟩,
  ⟨"SUB", 0x4801#16, 0xF807#16⟩,
  ⟨"MUL", 0x4802#16, 0xF807#16⟩,
  ⟨"DIV", 0x4803#16, 0xF807#16⟩,
  ⟨"AND", 0x4804#16, 0xF807#16⟩,
  ⟨"OR", 0x4805#16, 0xF807#16⟩,
  ⟨"XOR", 0x4806#16, 0xF807#16⟩,
  ⟨"NOT", 0x4807#16, 0xF87F#16⟩,
  ⟨"SHL", 0x4000#16, 0xF807#16⟩,
  ⟨"SHR", 0x5000#16, 0xF807#16⟩]

/-- The rows of the group Control. -/
def controlRows : List OpcodeRow := [
  ⟨"BR", 0x8000#16, 0xF800#16⟩,
  ⟨"BR", 0x8800#16, 0xF87F#16⟩,
  ⟨"BRn", 0x9000#16, 0xF803#16⟩,
  ⟨"BRz", 0x9001#16, 0xF803#16⟩,
  ⟨"BRc", 0x9002#16, 0xF803#16⟩,
  ⟨"BRo", 0x9003#16, 0xF803#16⟩,
  ⟨"BRn", 0x9800#16, 0xF87F#16⟩,
  ⟨"BRz", 0x9801#16, 0xF87F#16⟩,
  ⟨"BRc", 0x9802#16, 0xF87F#16⟩,
  ⟨"BRo", 0x9803#16, 0xF87F#16⟩,
  ⟨"JSR", 0xA000#16, 0xF87F#16⟩,
  ⟨"JSRn", 0xA800#16, 0xF87F#16⟩,
  ⟨"JSRz", 0xA801#16, 0xF87F#16⟩,
  ⟨"JSRc", 0xA802#16, 0xF87F#16⟩,
  ⟨"JSRo", 0xA803#16, 0xF87F#16⟩,
  ⟨"TRAP", 0xB000#16, 0xF81F#16⟩,
  ⟨"RET", 0xB800#16, 0xFFFF#16⟩,
  ⟨"RETI", 0xB801#16, 0xFFFF#16⟩]

/-- The rows of the group I/O and miscellaneous. -/
def supervisorRows : List OpcodeRow := [
  ⟨"IN", 0xC000#16, 0xF801#16⟩,
  ⟨"OUT", 0xC001#16, 0xF801#16⟩,
  ⟨"EI", 0xC800#16, 0xF807#16⟩,
  ⟨"DI", 0xC801#16, 0xF807#16⟩,
  ⟨"HALT", 0xD000#16, 0xFFFF#16⟩,
  ⟨"NOP", 0xD800#16, 0xFFFF#16⟩,
  ⟨"LDOS", 0xE000#16, 0xF800#16⟩,
  ⟨"LDRO", 0xE800#16, 0xF800#16⟩]

/-- The 59 rows, in the table's order (R105). -/
def opcodeRows : List OpcodeRow := dataRows ++ aluRows ++ controlRows ++ supervisorRows

/-- The must-be-zero bits of a first word, listed by opcode as R97 lists them: a 1 in one of them is a reserved encoding, or,
with `STRICT_RESERVED_FIELDS` false, ignored. -/
def mustBeZeroBits (w : Word) : Word :=
  match (w.extractLsb' 11 5).toNat with
  | 0b00010 | 0b10001 | 0b10100 => 0x007F#16
  | 0b10011 | 0b10101 => 0x007C#16
  | 0b10110 => 0x001F#16
  | 0b10111 => 0x07FE#16
  | 0b11010 | 0b11011 => 0x07FF#16
  | 0b00111 => 0x0078#16
  | 0b01001 => if w.extractLsb' 0 3 = 0b111#3 then 0x0078#16 else 0x0000#16
  | _ => 0x0000#16

/-- A first word with its must-be-zero bits cleared (R97). -/
def clearMustBeZero (w : Word) : Word := w &&& ~~~mustBeZeroBits w

/-- The position of an instruction's row in the table. -/
def rowNumber : Instr → Nat
  | .ldi _ _ => 0
  | .lda _ _ => 1
  | .ldbReg _ _ => 2
  | .ldbBase _ _ => 3
  | .ldbIdx _ => 4
  | .ldbInd _ _ => 5
  | .ldwReg _ _ => 6
  | .ldwBase _ _ => 7
  | .ldwIdx _ => 8
  | .ldwInd _ _ => 9
  | .mov _ _ => 10
  | .stbReg _ _ => 11
  | .stbBase _ _ => 12
  | .stbIdx _ => 13
  | .stbInd _ _ => 14
  | .stwReg _ _ => 15
  | .stwBase _ _ => 16
  | .stwIdx _ => 17
  | .stwInd _ _ => 18
  | .pushb _ => 19
  | .popb _ => 20
  | .pushw _ => 21
  | .popw _ => 22
  | .add _ _ => 23
  | .sub _ _ => 24
  | .mul _ _ => 25
  | .div _ _ => 26
  | .bitAnd _ _ => 27
  | .bitOr _ _ => 28
  | .bitXor _ _ => 29
  | .bitNot _ => 30
  | .shl _ _ => 31
  | .shr _ _ => 32
  | .brImm _ => 33
  | .brReg _ => 34
  | .brnImm _ => 35
  | .brzImm _ => 36
  | .brcImm _ => 37
  | .broImm _ => 38
  | .brnReg _ => 39
  | .brzReg _ => 40
  | .brcReg _ => 41
  | .broReg _ => 42
  | .jsr _ => 43
  | .jsrn _ => 44
  | .jsrz _ => 45
  | .jsrc _ => 46
  | .jsro _ => 47
  | .trap _ => 48
  | .ret => 49
  | .reti => 50
  | .portIn _ _ => 51
  | .portOut _ _ => 52
  | .ei _ => 53
  | .di _ => 54
  | .halt => 55
  | .nop => 56
  | .ldos _ => 57
  | .ldro _ => 58

/-- The row of an instruction. -/
def opcodeRow (i : Instr) : Option OpcodeRow := opcodeRows[rowNumber i]?

end Sys2Proof.Machine
end

