-- ==== Sys2Proof/Safety.lean ====
section
/-! DEFINITION. The terms the statements use: what a state keeps of another (frames), which registers, bytes and parts
each instruction may change, the invariant of the machine, and what counts as a safe step. -/

namespace Sys2Proof.Machine

/-! ## Frames -/

/-- The parts of the state beside the working registers and memory. -/
inductive Part where
  /-- the program counter -/
  | pc
  /-- the instruction register -/
  | ir
  /-- the status word -/
  | sw
  /-- OSB, and that LDOS has executed -/
  | osb
  /-- TXB, and that LDRO has executed -/
  | txb
  /-- the run bit -/
  | rb
  /-- the ALU latches A, B, R -/
  | latches
  /-- what passed to and from the devices, and their scripted answers -/
  | devices
  /-- the request lines, their scripted samples and the count of boundaries -/
  | lines
  deriving DecidableEq, Repr

/-- Two states have the same value in a part. -/
def State.agree (s t : State) : Part → Prop
  | .pc => t.pc = s.pc
  | .ir => t.ir = s.ir
  | .sw => t.sw = s.sw
  | .osb => t.osb = s.osb ∧ t.osbLoaded = s.osbLoaded
  | .txb => t.txb = s.txb ∧ t.txbLoaded = s.txbLoaded
  | .rb => t.rb = s.rb
  | .latches => t.aluA = s.aluA ∧ t.aluB = s.aluB ∧ t.aluR = s.aluR
  | .devices => t.events = s.events ∧ t.portFeed = s.portFeed
  | .lines => t.irqLines = s.irqLines ∧ t.irqFeed = s.irqFeed ∧ t.boundary = s.boundary

/-- `t` keeps everything `s` holds but the named registers, bytes of memory and parts. -/
structure State.Keeps (s t : State) (regs : List Reg) (bytes : List Word) (parts : List Part) : Prop where
  /-- every other register -/
  regs : ∀ r, r ∉ regs → t.reg r = s.reg r
  /-- every other byte of memory -/
  memory : ∀ a, a ∉ bytes → t.readByte a = s.readByte a
  /-- every other part -/
  parts : ∀ p, p ∉ parts → s.agree t p

/-- The two bytes of the word at an address (R51). -/
def wordBytes (a : Word) : List Word := [a, a + 1]

/-! ## What each instruction may change -/

/-- The conditional calls' pushes and pointer updates, when taken (R23, R57). -/
def whenTaken {α : Type} (cc : Cond) (s : State) (xs : List α) : List α := if s.cond cc then xs else []

/-- The registers an instruction writes: its destination and the implicit ones (R22, R23). -/
def writtenRegs (i : Instr) (s : State) : List Reg :=
  match i with
  | .ldi d _ | .lda d _ | .mov d _ => [d]
  | .ldbReg d _ | .ldbBase d _ | .ldbInd d _ | .ldwReg d _ | .ldwBase d _ | .ldwInd d _ => [d]
  | .ldbIdx d | .ldwIdx d => [d, Reg.ip0]
  | .stbReg _ _ | .stbBase _ _ | .stbInd _ _ | .stwReg _ _ | .stwBase _ _ | .stwInd _ _ => []
  | .stbIdx _ | .stwIdx _ => [Reg.ip1]
  | .pushb _ | .pushw _ => [Reg.sp]
  | .popb d | .popw d => [d, Reg.sp]
  | .add d _ | .sub d _ | .bitAnd d _ | .bitOr d _ | .bitXor d _ | .bitNot d | .shl d _ | .shr d _ => [d]
  | .mul _ _ | .div _ _ => [Reg.r8, Reg.r9]
  | .brImm _ | .brReg _ | .brnImm _ | .brzImm _ | .brcImm _ | .broImm _ => []
  | .brnReg _ | .brzReg _ | .brcReg _ | .broReg _ => []
  | .jsr _ => [Reg.sp]
  | .jsrn _ => whenTaken .n s [Reg.sp]
  | .jsrz _ => whenTaken .z s [Reg.sp]
  | .jsrc _ => whenTaken .c s [Reg.sp]
  | .jsro _ => whenTaken .o s [Reg.sp]
  | .trap _ | .ret | .reti => [Reg.sp]
  | .portIn d _ => [d]
  | .portOut _ _ | .ei _ | .di _ | .halt | .nop | .ldos _ | .ldro _ => []

/-- A word as the two bytes it is stored as, each with its address (R50, R51). -/
def wordCells (a v : Word) : List (Word × Byte) := [(a, hob v), (a + 1, lob v)]

/-- What an instruction stores: each byte with its address, at the addresses its meaning computes and with the values the
registers, `pc` and SW hold before it (R12, R57, R111, R140, R265). No address is listed twice. -/
def stores (i : Instr) (s : State) : List (Word × Byte) :=
  match i with
  | .stbReg r a => [(s.ea .register a, lob (s.reg r))]
  | .stbBase r a => [(s.ea .base a, lob (s.reg r))]
  | .stbIdx r => [(s.ea .index Reg.ip1, lob (s.reg r))]
  | .stbInd r a => [(s.ea .indirect a, lob (s.reg r))]
  | .stwReg r a => wordCells (s.ea .register a) (s.reg r)
  | .stwBase r a => wordCells (s.ea .base a) (s.reg r)
  | .stwIdx r => wordCells (s.ea .index Reg.ip1) (s.reg r)
  | .stwInd r a => wordCells (s.ea .indirect a) (s.reg r)
  | .pushb r => [(s.reg Reg.sp - 1, lob (s.reg r))]
  | .pushw r => wordCells (s.reg Reg.sp - 2) (s.reg r)
  | .jsr _ => wordCells (s.reg Reg.sp - 2) s.pc
  | .jsrn _ => whenTaken .n s (wordCells (s.reg Reg.sp - 2) s.pc)
  | .jsrz _ => whenTaken .z s (wordCells (s.reg Reg.sp - 2) s.pc)
  | .jsrc _ => whenTaken .c s (wordCells (s.reg Reg.sp - 2) s.pc)
  | .jsro _ => whenTaken .o s (wordCells (s.reg Reg.sp - 2) s.pc)
  | .trap _ => wordCells (s.reg Reg.sp - 2) s.pc ++ wordCells (s.reg Reg.sp - 4) s.swValue
  | .ldi _ _ | .lda _ _ | .ldbReg _ _ | .ldbBase _ _ | .ldbIdx _ | .ldbInd _ _ => []
  | .ldwReg _ _ | .ldwBase _ _ | .ldwIdx _ | .ldwInd _ _ | .mov _ _ | .popb _ | .popw _ => []
  | .add _ _ | .sub _ _ | .mul _ _ | .div _ _ | .bitAnd _ _ | .bitOr _ _ | .bitXor _ _ => []
  | .bitNot _ | .shl _ _ | .shr _ _ => []
  | .brImm _ | .brReg _ | .brnImm _ | .brzImm _ | .brcImm _ | .broImm _ => []
  | .brnReg _ | .brzReg _ | .brcReg _ | .broReg _ | .ret | .reti => []
  | .portIn _ _ | .portOut _ _ | .ei _ | .di _ | .halt | .nop | .ldos _ | .ldro _ => []

/-- The bytes an instruction stores to (R57). -/
def storedBytes (i : Instr) (s : State) : List Word := (stores i s).map Prod.fst

/-- The parts an instruction may change beside registers and memory (R25, R30 to R34, R213, R214). -/
def changedParts : Instr → List Part
  | .lda _ _ => [.pc]
  | .add _ _ | .sub _ _ | .mul _ _ | .div _ _ | .bitAnd _ _ | .bitOr _ _ | .bitXor _ _ => [.sw, .latches]
  | .bitNot _ | .shl _ _ | .shr _ _ => [.sw, .latches]
  | .brImm _ | .brReg _ | .brnImm _ | .brzImm _ | .brcImm _ | .broImm _ => [.pc]
  | .brnReg _ | .brzReg _ | .brcReg _ | .broReg _ => [.pc]
  | .jsr _ | .jsrn _ | .jsrz _ | .jsrc _ | .jsro _ | .trap _ | .ret => [.pc]
  | .reti => [.pc, .sw]
  | .portIn _ _ | .portOut _ _ => [.devices]
  | .ei _ | .di _ => [.sw]
  | .halt => [.rb]
  | .ldos _ => [.osb]
  | .ldro _ => [.txb]
  | .nop => []
  | .ldi _ _ | .ldbReg _ _ | .ldbBase _ _ | .ldbIdx _ | .ldbInd _ _ => []
  | .ldwReg _ _ | .ldwBase _ _ | .ldwIdx _ | .ldwInd _ _ | .mov _ _ => []
  | .stbReg _ _ | .stbBase _ _ | .stbIdx _ | .stbInd _ _ => []
  | .stwReg _ _ | .stwBase _ _ | .stwIdx _ | .stwInd _ _ => []
  | .pushb _ | .popb _ | .pushw _ | .popw _ => []

/-- The ten instructions of the ALU section, the writers of the condition codes beside RETI (R30, R150). -/
def isAlu : Instr → Bool
  | .add _ _ | .sub _ _ | .mul _ _ | .div _ _ | .bitAnd _ _ | .bitOr _ _ | .bitXor _ _ => true
  | .bitNot _ | .shl _ _ | .shr _ _ => true
  | .ldi _ _ | .lda _ _ | .ldbReg _ _ | .ldbBase _ _ | .ldbIdx _ | .ldbInd _ _ => false
  | .ldwReg _ _ | .ldwBase _ _ | .ldwIdx _ | .ldwInd _ _ | .mov _ _ => false
  | .stbReg _ _ | .stbBase _ _ | .stbIdx _ | .stbInd _ _ => false
  | .stwReg _ _ | .stwBase _ _ | .stwIdx _ | .stwInd _ _ => false
  | .pushb _ | .popb _ | .pushw _ | .popw _ => false
  | .brImm _ | .brReg _ | .brnImm _ | .brzImm _ | .brcImm _ | .broImm _ => false
  | .brnReg _ | .brzReg _ | .brcReg _ | .broReg _ => false
  | .jsr _ | .jsrn _ | .jsrz _ | .jsrc _ | .jsro _ | .trap _ | .ret | .reti => false
  | .portIn _ _ | .portOut _ _ | .ei _ | .di _ | .halt | .nop | .ldos _ | .ldro _ => false

/-! ## Encodings -/

/-- A first word encodes a one-word instruction: the decoder reads it so, whatever follows (R80, R96). -/
def Encodes (w : Word) (i : Instr) : Prop := ∀ rest, decode (bytesOfWord w ++ rest) = .ok (i, rest)

/-! ## The invariant and safe steps -/

/-- An I/O event names one of the 64 ports (R36, R211). -/
def portInRange : IoEvent → Bool
  | .read p _ => decide (p < portCount)
  | .write p _ => decide (p < portCount)
  | .entry _ => true

/-- What every step keeps: memory's canonical form, the reserved bits of SW at 0 (R29), ports in range (R211), and at
most one I/O event or interrupt entry for each boundary passed (R300). -/
abbrev State.Inv (s : State) : Prop :=
  s.mem.wf ∧ s.sw &&& 0x0F00#16 = 0#16 ∧ (∀ e ∈ s.events, portInRange e = true) ∧ s.events.length ≤ s.boundary

/-- The boundary is one at which an instruction is fetched: the clock runs and no enabled line requests (R257, R300). -/
def State.fetches (s : State) : Prop := s.rb = true ∧ s.pendingLine = none

/-- A safe step: the machine has a next state, so it is neither halted nor stopped by a fault. -/
def State.stepsSafely (s : State) : Prop := ∃ t, step s = .next t

/-- Wherever this word is fetched, the step is the fault `ReservedEncoding` with the word and its address (R99, R251). -/
def FaultsAsReserved (w : Word) : Prop :=
  ∀ s : State, s.fetches → s.readWord s.pc = w → step s = .fault (.reservedEncoding w s.pc)

/-- The state without what no rule reads: OSB, TXB, IR and the ALU latches (R26, R31 to R33, R298). -/
def State.withoutUnread (s : State) : State :=
  { s with
    osb := 0#16, txb := 0#16, osbLoaded := false, txbLoaded := false, ir := 0#16, aluA := 0#16, aluB := 0#16, aluR := 0#32 }

end Sys2Proof.Machine
end

