-- ==== Sys2Proof/Certificates/Slice0/Obligations.lean ====
section
/-! DEFINITION. The statements for the provers. Each docstring names the rule of spec/ it formalises; a clause that
rests on a choice of the model names the log entry. In every statement about `exec`, `s.pc` is the instruction's address
+ 2 (R24, R180). -/

open Sys2Proof Sys2Proof.Machine

/-! ## Encoding -/

/-- Decoding an encoded well-formed instruction gives it back, and leaves the bytes that follow it (R82, R96). -/
def Obligations.DecodeOfEncodeGivesTheInstruction : Prop :=
  ∀ (i : Instr) (rest : List Byte), i.WellFormed = true → decode (encodeBytes i ++ rest) = .ok (i, rest)

/-- Bytes that decode are the encoding of a well-formed instruction, so no two byte sequences mean one instruction
(R96, R97 with the default `STRICT_RESERVED_FIELDS`).
The spec's own decisions behind it (spec/92_eei_decisions.md): D7. -/
def Obligations.EncodeOfDecodeGivesTheBytes : Prop :=
  ∀ (bytes : List Byte) (i : Instr) (rest : List Byte), decode bytes = .ok (i, rest) →
    i.WellFormed = true ∧ encodeBytes i ++ rest = bytes

/-- Strict decoding accepts exactly the words some row of spec/opcode_table.json accepts, and gives an instruction of
that row; the 59 rows are pairwise disjoint (R96, R105).
The spec's own decisions behind it (spec/92_eei_decisions.md): D7. -/
def Obligations.DecoderAcceptsExactlyTheTable : Prop :=
  opcodeRows.length = 59 ∧
  (opcodeRows.Pairwise fun r q => ∀ w, ¬(r.accepts w = true ∧ q.accepts w = true)) ∧
  ∀ w operand : Word,
    (∀ i, decodeWord true w operand = .ok i → ∃ row, opcodeRow i = some row ∧ row.accepts w = true) ∧
    ((∃ row ∈ opcodeRows, row.accepts w = true) → ∃ i, decodeWord true w operand = .ok i)

/-- The length is told by the opcode alone: LDA has two words, everything else one (R80). -/
def Obligations.OpcodeTellsTheLength : Prop :=
  ∀ (bytes : List Byte) (i : Instr) (rest : List Byte), decode bytes = .ok (i, rest) →
    ∃ b0 b1 more, bytes = b0 :: b1 :: more ∧
      if opField (wordOfBytes b0 b1) = 0b00010#5 then
        (∃ d v, i = .lda d v) ∧ bytes.length = rest.length + 4
      else
        (∀ d v, i ≠ .lda d v) ∧ bytes.length = rest.length + 2

/-- With `STRICT_RESERVED_FIELDS` false the must-be-zero bits are ignored: a word is decoded, and rejected, exactly as
strict decoding decodes or rejects it with those bits cleared (R97). So nothing accepted changes, every word rejected
for those bits is accepted as the instruction it is without them, and every other rejection stays.
The spec's own decisions behind it (spec/92_eei_decisions.md): D7. -/
def Obligations.LaxDecodingIgnoresReservedBits : Prop :=
  ∀ w operand : Word,
    decodeWord false w operand = decodeWord true (clearMustBeZero w) operand ∧
    (∀ i, decodeWord true w operand = .ok i → decodeWord false w operand = .ok i) ∧
    (∀ op, decodeWord true w operand = .error (.nonzeroReservedBits op) →
      w &&& mustBeZeroBits w ≠ 0#16 ∧
        ∃ i, decodeWord true (clearMustBeZero w) operand = .ok i ∧ decodeWord false w operand = .ok i) ∧
    (∀ e, (∀ op, e ≠ .nonzeroReservedBits op) → decodeWord true w operand = .error e →
      decodeWord false w operand = .error e)

/-- A few words of the spec's examples, one or more for each family, decode to what the spec says they are. -/
def Obligations.SampleWordsDecode : Prop :=
  decodeTableWord 16 0x09FE = some (.ldi 3 0x7E#7) ∧
  decodeTableWord 32 0xFFFE1780 = some (.lda 15 0xFFFE#16) ∧
  decodeTableWord 16 0x1891 = some (.ldbBase 1 2) ∧
  decodeTableWord 16 0x30EA = some (.stwIdx 1) ∧
  decodeTableWord 16 0x4893 = some (.div 1 2) ∧
  decodeTableWord 16 0x5090 = some (.shr 1 2) ∧
  decodeTableWord 16 0x97E1 = some (.brzImm 0x1F8#9) ∧
  decodeTableWord 16 0xAD03 = some (.jsro 10) ∧
  decodeTableWord 16 0xB7C0 = some (.trap 0x3E#6) ∧
  decodeTableWord 16 0xC065 = some (.portOut 0 0x32) ∧
  decodeTableWord 16 0xCFD9 = some (.di 0xFB#8) ∧
  decodeTableWord 16 0x0000 = none ∧
  decodeTableWord 16 0x186A = none

/-! ## The step -/

/-- When an instruction is fetched and its bytes decode, the step is `exec` of it in the state whose IR is its first
word and whose `pc` is past that word, followed by the passage to the next boundary (R24, R26, R300).
The spec's own decisions behind it (spec/92_eei_decisions.md): D24, D40; the script of request
lines is the model's (log 4). -/
def Obligations.StepRunsTheDecodedInstruction : Prop :=
  ∀ (s : State) (i : Instr) (rest : List Byte), s.fetches →
    decode [s.readByte s.pc, s.readByte (s.pc + 1), s.readByte (s.pc + 2), s.readByte (s.pc + 3)] = .ok (i, rest) →
    step s = onNext State.nextBoundary (exec i { s with ir := s.readWord s.pc, pc := s.pc + 2 }) ∧
    ∀ t : State, t.nextBoundary =
      { t with boundary := t.boundary + 1, irqLines := t.nextLines, irqFeed := t.irqFeed.tail }

/-- The two faults, each raised exactly when its rule says; there is no third (R251). A fault gives no state.
The spec's own decisions behind it (spec/92_eei_decisions.md): D8, D17. -/
def Obligations.FaultsAreReservedEncodingAndDivideByZero : Prop :=
  ∀ (s : State) (f : Fault),
    step s = .fault f ↔
      s.fetches ∧
        ((f = .reservedEncoding (s.readWord s.pc) s.pc ∧
            ∀ row ∈ opcodeRows, row.accepts (s.readWord s.pc) = false) ∨
          (f = .divideByZero s.pc ∧ ∃ d r, s.fetchInstr = .ok (.div d r) ∧ s.reg r = 0#16))

/-- With RB = 0 there is no step and no interrupt is taken, whatever lines request (R302, R266). That nothing but a
halted machine is refused rests on the default `PROTECTION_POLICY` = none (log 7; R62, R270), and that the model shows
the missing step as the refusal `halted` is its choice (log 8).
The spec's own decisions behind it (spec/92_eei_decisions.md): D28, D30. -/
def Obligations.HaltedMachineHasNoStep : Prop :=
  (∀ s : State, s.rb = false → (∀ t, step s ≠ .next t) ∧ ∀ f, step s ≠ .fault f) ∧
  ∀ (s : State) (r : Refusal), step s = .refused r ↔ s.rb = false ∧ r = .halted

/-- Every instruction completes in every state, but DIV by a register that holds 0 (R110, R162, R180, R210, R230).
The spec's own decisions behind it (spec/92_eei_decisions.md): D9, D17, D28. -/
def Obligations.EveryInstructionCompletes : Prop :=
  ∀ (i : Instr) (s : State),
    (∃ t, exec i s = .next t) ∨
      ∃ d r, i = .div d r ∧ s.reg r = 0#16 ∧ exec i s = .fault (.divideByZero (s.pc - 2))

/-- Every step keeps the invariant: memory's canonical form, SW's reserved bits at 0, ports in range, and no more I/O
events and interrupt entries than boundaries. The last three rest on R29 (log 17), R211 and R300; the form of memory (log 3)
and the record that the last two speak of (log 20) are the model's.
The spec's own decisions behind it (spec/92_eei_decisions.md): D27. -/
def Obligations.StepKeepsTheInvariant : Prop :=
  ∀ s t : State, s.Inv → step s = .next t → t.Inv

/-- The invariant holds right after reset: SW is 0 (R292); that memory lists nothing (log 3), and that the history is
empty and the count of boundaries 0 (log 5, log 20), are the model's choices, on which the other clauses rest.
The spec's own decisions behind it (spec/92_eei_decisions.md): D29. -/
def Obligations.ResetSatisfiesTheInvariant : Prop := State.reset.Inv

/-- What the spec fixes of the state after reset: RB is 1, SW is 0, so all condition codes and enables are 0 and no
line can interrupt (R290, R292).
The spec's own decisions behind it (spec/92_eei_decisions.md): SW = 0 is D29. -/
def Obligations.ResetRunsWithInterruptsOff : Prop :=
  State.reset.rb = true ∧ State.reset.sw = 0x0000#16 ∧ State.reset.flags = ⟨false, false, false, false⟩ ∧
    State.reset.irqEnables = 0x00#8 ∧
    ∀ lines : BitVec 8, ({ State.reset with irqLines := lines } : State).pendingLine = none

/-- The frame of every instruction: a next state keeps every register, byte and part but those the tables
`writtenRegs` (R22, R23), `storedBytes` (R57, at the addresses the meaning computes) and `changedParts` (R25, R30 to
R34) name.
The spec's own decisions behind it (spec/92_eei_decisions.md): D9. -/
def Obligations.EveryInstructionKeepsItsFrame : Prop :=
  ∀ (i : Instr) (s t : State), exec i s = .next t →
    s.Keeps t (writtenRegs i s) (storedBytes i s) (changedParts i)

/-- Only HALT clears RB, and nothing but reset sets it (R34): a step starts with RB 1, and ends with RB 0 exactly when
it executed HALT. -/
def Obligations.OnlyHaltClearsTheRunBit : Prop :=
  ∀ s t : State, step s = .next t →
    s.rb = true ∧ (t.rb = false ↔ s.pendingLine = none ∧ s.fetchInstr = .ok .halt)

/-- OSB is written by LDOS only and TXB by LDRO only, each with the address of the next instruction plus the signed
offset (R31, R32, R235, R236). -/
def Obligations.OnlyLdosAndLdroWriteTheBoundaries : Prop :=
  ∀ s t : State, step s = .next t →
    (t.osb = s.osb ∨ s.pendingLine = none ∧
      ∃ off, s.fetchInstr = .ok (.ldos off) ∧ t.osb = s.pc + 2 + off.signExtend 16) ∧
    (t.txb = s.txb ∨ s.pendingLine = none ∧
      ∃ off, s.fetchInstr = .ok (.ldro off) ∧ t.txb = s.pc + 2 + off.signExtend 16)

/-- The writers of SW (R30): the ten ALU instructions write bits 15 to 12 only, EI and DI bits 7 to 0 only, RETI all
defined bits, from the word it pops (R189), and no other instruction, nor interrupt entry, writes any.
The spec's own decisions behind it (spec/92_eei_decisions.md): D9, D25, D27. -/
def Obligations.WritersOfTheStatusWord : Prop :=
  (∀ (i : Instr) (s t : State), exec i s = .next t →
    (isAlu i = true → t.sw.extractLsb' 0 12 = s.sw.extractLsb' 0 12) ∧
    ((∃ m, i = .ei m) ∨ (∃ m, i = .di m) → t.sw.extractLsb' 8 8 = s.sw.extractLsb' 8 8) ∧
    (i = .reti → t.sw = s.readWord (s.reg 15) &&& 0xF0FF#16) ∧
    (isAlu i = false → (∀ m, i ≠ .ei m) → (∀ m, i ≠ .di m) → i ≠ .reti → t.sw = s.sw)) ∧
  ∀ (s t : State) (n : Fin 8), s.pendingLine = some n → step s = .next t → t.sw = s.sw

/-- SW bits 11:8 read as 0 and ignore writes (R29, log 17): no instruction and no interrupt entry sets one, RETI drops them
from the word it pops, and TRAP and interrupt entry push zeros there.
The spec's own decisions behind it (spec/92_eei_decisions.md): D27. -/
def Obligations.ReservedStatusBitsStayZero : Prop :=
  (∀ s t : State, step s = .next t → s.sw.extractLsb' 8 4 = 0#4 → t.sw.extractLsb' 8 4 = 0#4) ∧
  (∀ s t : State, exec .reti s = .next t → t.sw = s.readWord (s.reg Reg.sp) &&& 0xF0FF#16) ∧
  (∀ (v : BitVec 6) (s t : State), exec (.trap v) s = .next t →
    (t.readByte (s.reg Reg.sp - 4)).extractLsb' 0 4 = 0#4) ∧
  ∀ (s t : State) (n : Fin 8), s.pendingLine = some n → step s = .next t →
    (t.readByte (s.reg Reg.sp - 4)).extractLsb' 0 4 = 0#4

/-- How `pc` changes (R25): LDA adds 2 more; BR, JSR, TRAP, RET and RETI set it; the conditional forms set it when their
flag is 1 and leave it when it is 0; every other instruction leaves it at its fetch-time value; interrupt entry sets it
to the line's table address (R258). JSR and JSRcc of SP go to its value before the push (log 11, U7); TRAP's target and
the entry's are those of the default `TRAP_VECTOR_INDIRECT` (log 10).
The spec's own decisions behind it (spec/92_eei_decisions.md): D1, D3, D18 to D21, D23, D36. -/
def Obligations.ProgramCounterChangesOnlyWhereStated : Prop :=
  (∀ (i : Instr) (s t : State), exec i s = .next t →
    (∀ d v, i = .lda d v → t.pc = s.pc + 2) ∧
    (∀ off, i = .brImm off → t.pc = s.pc + off.signExtend 16) ∧
    (∀ r, i = .brReg r ∨ i = .jsr r → t.pc = s.reg r) ∧
    (∀ v, i = .trap v → t.pc = 0x2100#16 + v.signExtend 16) ∧
    (i = .ret → t.pc = s.readWord (s.reg 15)) ∧
    (i = .reti → t.pc = s.readWord (s.reg 15 + 2)) ∧
    (∀ off, i = .brnImm off → t.pc = if s.flagN then s.pc + off.signExtend 16 else s.pc) ∧
    (∀ r, i = .brnReg r ∨ i = .jsrn r → t.pc = if s.flagN then s.reg r else s.pc) ∧
    (∀ off, i = .brzImm off → t.pc = if s.flagZ then s.pc + off.signExtend 16 else s.pc) ∧
    (∀ r, i = .brzReg r ∨ i = .jsrz r → t.pc = if s.flagZ then s.reg r else s.pc) ∧
    (∀ off, i = .brcImm off → t.pc = if s.flagC then s.pc + off.signExtend 16 else s.pc) ∧
    (∀ r, i = .brcReg r ∨ i = .jsrc r → t.pc = if s.flagC then s.reg r else s.pc) ∧
    (∀ off, i = .broImm off → t.pc = if s.flagO then s.pc + off.signExtend 16 else s.pc) ∧
    (∀ r, i = .broReg r ∨ i = .jsro r → t.pc = if s.flagO then s.reg r else s.pc) ∧
    (Part.pc ∉ changedParts i → t.pc = s.pc)) ∧
  ∀ (s t : State) (n : Fin 8), s.pendingLine = some n → step s = .next t → t.pc = ivtEntry n

/-- What no rule reads never matters: two states that differ only in OSB, TXB, IR and the ALU latches have the same
step but for those, so LDOS and LDRO have no effect on later execution under the default policy (R298, R62, R26, R33).
The spec's own decisions behind it (spec/92_eei_decisions.md): D28, D40. -/
def Obligations.UnreadStateNeverMatters : Prop :=
  ∀ s s' : State, s.withoutUnread = s'.withoutUnread →
    onNext State.withoutUnread (step s) = onNext State.withoutUnread (step s')

/-! ## Memory -/

/-- A load of a byte gives the most recent store to it, or the initial content if there was none (R66).
The spec's own decisions behind it (spec/92_eei_decisions.md): D31, D33; that an unlisted byte
reads as the free value of `INIT_MEM` is the model's form of memory (log 3). -/
def Obligations.ByteReadsSeeTheLatestStore : Prop :=
  (∀ (s : State) (a k : Word) (b : Byte), (s.writeByte a b).readByte k = if k = a then b else s.readByte k) ∧
  ∀ (s : State) (k : Word), (∀ c ∈ s.mem, c.1 ≠ k.toNat) → s.readByte k = Config.initMem k.toNat

/-- Big-endian words, at any alignment and across the end of memory (R53, R51, R54, R56).
The spec's own decisions behind it (spec/92_eei_decisions.md): D3, D4. -/
def Obligations.WordAndByteAccessesAgree : Prop :=
  (∀ (s : State) (a v : Word),
    (s.writeWord a v).readByte a = hob v ∧ (s.writeWord a v).readByte (a + 1) = lob v ∧
    ∀ k, k ≠ a → k ≠ a + 1 → (s.writeWord a v).readByte k = s.readByte k) ∧
  ∀ (s : State) (a : Word) (b0 b1 : Byte),
    ((s.writeByte a b0).writeByte (a + 1) b1).readWord a = wordOfBytes b0 b1

/-- A store is seen by every later fetch, LDA's operand fetch among them (R68). Whatever an instruction stores, a fetch
at any address right after it reads the stored bytes where it stored and the former ones elsewhere; so a word stored to
the next instruction's address by STW in any mode is that instruction, and one stored behind an LDA is its operand.
The spec's own decisions behind it (spec/92_eei_decisions.md): D1, D5, D31. -/
def Obligations.StoreIsSeenByTheNextFetch : Prop :=
  (∀ (i : Instr) (s t : State), exec i s = .next t → ∀ q : Word,
    (t.setPc q).fetchBytes =
      [q, q + 1, q + 2, q + 3].map fun a => ((stores i s).lookup a).getD (s.readByte a)) ∧
  ∀ (r a d : Reg) (s t : State),
    ∀ i ∈ [Instr.stwReg r a, .stwBase r a, .stwIdx r, .stwInd r a], exec i s = .next t →
      (storedBytes i s = wordBytes s.pc →
        t.fetchBytes.take 2 = [hob (s.reg r), lob (s.reg r)] ∧ t.fetched.ir = s.reg r) ∧
      (storedBytes i s = wordBytes (s.pc + 2) → s.readWord s.pc = 0b00010#5 ++ fieldOfReg d ++ 0b0000000#7 →
        t.fetchInstr = .ok (.lda d (s.reg r)))

/-- `EA(mode, a)` (R111).
The spec's own decisions behind it (spec/92_eei_decisions.md): D5 (the 16-bit pointer of indirect mode). -/
def Obligations.EffectiveAddresses : Prop :=
  ∀ (s : State) (a : Reg),
    s.ea .register a = s.reg a ∧ s.ea .base a = s.reg 14 + s.reg a ∧
    s.ea .index 12 = s.reg 12 ∧ s.ea .index 13 = s.reg 13 ∧
    s.ea .indirect a = wordOfBytes (s.readByte (s.reg a)) (s.readByte (s.reg a + 1))

/-! ## Data movement -/

/-- LDI loads the sign-extended immediate (R112) and MOV copies a register (R122); nothing else changes. -/
def Obligations.ImmediateLoadAndMove : Prop :=
  (∀ (d : Reg) (imm : BitVec 7) (s : State),
    Encodes (0b00001#5 ++ fieldOfReg d ++ imm) (.ldi d imm) ∧
    ∃ t, exec (.ldi d imm) s = .next t ∧ (t.reg d).toInt = imm.toInt ∧ s.Keeps t [d] [] []) ∧
  ∀ (d r : Reg) (s : State),
    Encodes (0b00100#5 ++ fieldOfReg d ++ fieldOfReg r ++ 0b100#3) (.mov d r) ∧
    ∃ t, exec (.mov d r) s = .next t ∧ t.reg d = s.reg r ∧ s.Keeps t [d] [] []

/-- LDA loads its operand word, whatever it is, and steps `pc` over it (R113, whose second increment of `pc` is the
spec's decision D36); a 1 in its seven zero bits is a reserved encoding (R97, D7, D8). -/
def Obligations.AddressLoad : Prop :=
  ∀ (d : Reg) (v : Word) (s : State),
    (∀ rest, decode (bytesOfWord (0b00010#5 ++ fieldOfReg d ++ 0b0000000#7) ++ bytesOfWord v ++ rest)
      = .ok (.lda d v, rest)) ∧
    (∀ z : BitVec 7, z ≠ 0#7 → FaultsAsReserved (0b00010#5 ++ fieldOfReg d ++ z)) ∧
    ∃ t, exec (.lda d v) s = .next t ∧ t.reg d = v ∧ t.pc = s.pc + 2 ∧ s.Keeps t [d] [] [.pc]

/-- LDB in its four modes: the low byte of the destination is the byte at the effective address, the high byte is kept;
in index mode IP0 is increased by 1 before the destination is written, which settles LDB into IP0 itself (log 11, U7)
(R114, R116, R118, R120, R143). A wrong index field is a reserved encoding (log 9).
The spec's own decisions behind it (spec/92_eei_decisions.md): D1, D2, D5 (the word pointer of indirect mode), D6, D8
(log 18). -/
def Obligations.ByteLoads : Prop :=
  (∀ (d a : Reg) (s : State),
    Encodes (0b00011#5 ++ fieldOfReg d ++ fieldOfReg a ++ 0b000#3) (.ldbReg d a) ∧
    ∃ t, exec (.ldbReg d a) s = .next t ∧
      t.reg d = wordOfBytes (hob (s.reg d)) (s.readByte (s.reg a)) ∧ s.Keeps t [d] [] []) ∧
  (∀ (d a : Reg) (s : State),
    Encodes (0b00011#5 ++ fieldOfReg d ++ fieldOfReg a ++ 0b001#3) (.ldbBase d a) ∧
    ∃ t, exec (.ldbBase d a) s = .next t ∧
      t.reg d = wordOfBytes (hob (s.reg d)) (s.readByte (s.reg 14 + s.reg a)) ∧ s.Keeps t [d] [] []) ∧
  (∀ (d : Reg) (s : State),
    Encodes (0b00011#5 ++ fieldOfReg d ++ 0b1100#4 ++ 0b010#3) (.ldbIdx d) ∧
    (∀ f : BitVec 4, f ≠ 0b1100#4 → FaultsAsReserved (0b00011#5 ++ fieldOfReg d ++ f ++ 0b010#3)) ∧
    ∃ t, exec (.ldbIdx d) s = .next t ∧
      (if d = 12 then t.reg 12 = wordOfBytes (hob (s.reg 12 + 1)) (s.readByte (s.reg 12))
       else t.reg d = wordOfBytes (hob (s.reg d)) (s.readByte (s.reg 12)) ∧ t.reg 12 = s.reg 12 + 1) ∧
      s.Keeps t [d, 12] [] []) ∧
  ∀ (d a : Reg) (s : State),
    Encodes (0b00011#5 ++ fieldOfReg d ++ fieldOfReg a ++ 0b011#3) (.ldbInd d a) ∧
    ∃ t, exec (.ldbInd d a) s = .next t ∧
      t.reg d = wordOfBytes (hob (s.reg d))
        (s.readByte (wordOfBytes (s.readByte (s.reg a)) (s.readByte (s.reg a + 1)))) ∧ s.Keeps t [d] [] []

/-- LDW in its four modes: the destination is the big-endian word at the effective address; in index mode IP0 is
increased by 2 before the destination is written, which settles LDW into IP0 itself (log 11, U7) (R115, R117, R119,
R121). A wrong index field is a reserved encoding (log 9).
The spec's own decisions behind it (spec/92_eei_decisions.md): D1, D5 (the word pointer of indirect mode), D6, D8 (log
18). -/
def Obligations.WordLoads : Prop :=
  (∀ (d a : Reg) (s : State),
    Encodes (0b00100#5 ++ fieldOfReg d ++ fieldOfReg a ++ 0b000#3) (.ldwReg d a) ∧
    ∃ t, exec (.ldwReg d a) s = .next t ∧
      t.reg d = wordOfBytes (s.readByte (s.reg a)) (s.readByte (s.reg a + 1)) ∧ s.Keeps t [d] [] []) ∧
  (∀ (d a : Reg) (s : State),
    Encodes (0b00100#5 ++ fieldOfReg d ++ fieldOfReg a ++ 0b001#3) (.ldwBase d a) ∧
    ∃ t, exec (.ldwBase d a) s = .next t ∧
      t.reg d = wordOfBytes (s.readByte (s.reg 14 + s.reg a)) (s.readByte (s.reg 14 + s.reg a + 1)) ∧
      s.Keeps t [d] [] []) ∧
  (∀ (d : Reg) (s : State),
    Encodes (0b00100#5 ++ fieldOfReg d ++ 0b1100#4 ++ 0b010#3) (.ldwIdx d) ∧
    (∀ f : BitVec 4, f ≠ 0b1100#4 → FaultsAsReserved (0b00100#5 ++ fieldOfReg d ++ f ++ 0b010#3)) ∧
    ∃ t, exec (.ldwIdx d) s = .next t ∧
      t.reg d = wordOfBytes (s.readByte (s.reg 12)) (s.readByte (s.reg 12 + 1)) ∧
      (d ≠ 12 → t.reg 12 = s.reg 12 + 2) ∧ s.Keeps t [d, 12] [] []) ∧
  ∀ (d a : Reg) (s : State),
    Encodes (0b00100#5 ++ fieldOfReg d ++ fieldOfReg a ++ 0b011#3) (.ldwInd d a) ∧
    ∃ t, exec (.ldwInd d a) s = .next t ∧
      t.reg d = s.readWord (wordOfBytes (s.readByte (s.reg a)) (s.readByte (s.reg a + 1))) ∧ s.Keeps t [d] [] []

/-- STB in its four modes: the byte at the effective address, computed before the store, becomes the low byte of the
source as it was before the instruction, IP1 itself too (log 11, U7), and no other byte changes; in index mode IP1 is
increased by 1 afterwards (R123, R125, R127, R129). A wrong index field is a reserved encoding (log 9).
The spec's own decisions behind it (spec/92_eei_decisions.md): D1, D5 (the word pointer of indirect mode), D6, D8 (log
18). -/
def Obligations.ByteStores : Prop :=
  (∀ (r a : Reg) (s : State),
    Encodes (0b00101#5 ++ fieldOfReg r ++ fieldOfReg a ++ 0b000#3) (.stbReg r a) ∧
    ∃ t, exec (.stbReg r a) s = .next t ∧
      t.readByte (s.ea .register a) = lob (s.reg r) ∧ s.Keeps t [] [s.ea .register a] []) ∧
  (∀ (r a : Reg) (s : State),
    Encodes (0b00101#5 ++ fieldOfReg r ++ fieldOfReg a ++ 0b001#3) (.stbBase r a) ∧
    ∃ t, exec (.stbBase r a) s = .next t ∧
      t.readByte (s.ea .base a) = lob (s.reg r) ∧ s.Keeps t [] [s.ea .base a] []) ∧
  (∀ (r : Reg) (s : State),
    Encodes (0b00101#5 ++ fieldOfReg r ++ 0b1101#4 ++ 0b010#3) (.stbIdx r) ∧
    (∀ f : BitVec 4, f ≠ 0b1101#4 → FaultsAsReserved (0b00101#5 ++ fieldOfReg r ++ f ++ 0b010#3)) ∧
    ∃ t, exec (.stbIdx r) s = .next t ∧
      t.readByte (s.ea .index 13) = lob (s.reg r) ∧ t.reg 13 = s.reg 13 + 1 ∧
      s.Keeps t [13] [s.ea .index 13] []) ∧
  ∀ (r a : Reg) (s : State),
    Encodes (0b00101#5 ++ fieldOfReg r ++ fieldOfReg a ++ 0b011#3) (.stbInd r a) ∧
    ∃ t, exec (.stbInd r a) s = .next t ∧
      t.readByte (s.ea .indirect a) = lob (s.reg r) ∧ s.Keeps t [] [s.ea .indirect a] []

/-- STW in its four modes: the two bytes at the effective address, computed before the store, become the high and low
byte of the source as it was before the instruction, IP1 itself too (log 11, U7), and no other byte changes; in index
mode IP1 is increased by 2 afterwards (R124, R126, R128, R130). A wrong index field is a reserved encoding (log 9).
The spec's own decisions behind it (spec/92_eei_decisions.md): D1, D5 (the word pointer of indirect mode), D6, D8 (log
18). -/
def Obligations.WordStores : Prop :=
  (∀ (r a : Reg) (s : State),
    Encodes (0b00110#5 ++ fieldOfReg r ++ fieldOfReg a ++ 0b000#3) (.stwReg r a) ∧
    ∃ t, exec (.stwReg r a) s = .next t ∧
      t.readByte (s.ea .register a) = hob (s.reg r) ∧ t.readByte (s.ea .register a + 1) = lob (s.reg r) ∧
      s.Keeps t [] (wordBytes (s.ea .register a)) []) ∧
  (∀ (r a : Reg) (s : State),
    Encodes (0b00110#5 ++ fieldOfReg r ++ fieldOfReg a ++ 0b001#3) (.stwBase r a) ∧
    ∃ t, exec (.stwBase r a) s = .next t ∧
      t.readByte (s.ea .base a) = hob (s.reg r) ∧ t.readByte (s.ea .base a + 1) = lob (s.reg r) ∧
      s.Keeps t [] (wordBytes (s.ea .base a)) []) ∧
  (∀ (r : Reg) (s : State),
    Encodes (0b00110#5 ++ fieldOfReg r ++ 0b1101#4 ++ 0b010#3) (.stwIdx r) ∧
    (∀ f : BitVec 4, f ≠ 0b1101#4 → FaultsAsReserved (0b00110#5 ++ fieldOfReg r ++ f ++ 0b010#3)) ∧
    ∃ t, exec (.stwIdx r) s = .next t ∧
      t.readByte (s.ea .index 13) = hob (s.reg r) ∧ t.readByte (s.ea .index 13 + 1) = lob (s.reg r) ∧
      t.reg 13 = s.reg 13 + 2 ∧ s.Keeps t [13] (wordBytes (s.ea .index 13)) []) ∧
  ∀ (r a : Reg) (s : State),
    Encodes (0b00110#5 ++ fieldOfReg r ++ fieldOfReg a ++ 0b011#3) (.stwInd r a) ∧
    ∃ t, exec (.stwInd r a) s = .next t ∧
      t.readByte (s.ea .indirect a) = hob (s.reg r) ∧ t.readByte (s.ea .indirect a + 1) = lob (s.reg r) ∧
      s.Keeps t [] (wordBytes (s.ea .indirect a)) []

/-- PUSHB and PUSHW: SP is decremented, then the source, as it was before the instruction, SP itself too (log 11, U7),
is stored at the new SP, a word big endian (R131, R133). A 1 in the zero field is a reserved encoding with the default
`STRICT_RESERVED_FIELDS` (log 10, log 9).
The spec's own decisions behind it (spec/92_eei_decisions.md): D1, D7, D8, D34. -/
def Obligations.Pushes : Prop :=
  (∀ (r : Reg) (s : State),
    Encodes (0b00111#5 ++ fieldOfReg r ++ 0b0000#4 ++ 0b000#3) (.pushb r) ∧
    (∀ f : BitVec 4, f ≠ 0#4 → FaultsAsReserved (0b00111#5 ++ fieldOfReg r ++ f ++ 0b000#3)) ∧
    ∃ t, exec (.pushb r) s = .next t ∧ t.reg 15 = s.reg 15 - 1 ∧
      t.readByte (s.reg 15 - 1) = lob (s.reg r) ∧ s.Keeps t [15] [s.reg 15 - 1] []) ∧
  ∀ (r : Reg) (s : State),
    Encodes (0b00111#5 ++ fieldOfReg r ++ 0b0000#4 ++ 0b010#3) (.pushw r) ∧
    (∀ f : BitVec 4, f ≠ 0#4 → FaultsAsReserved (0b00111#5 ++ fieldOfReg r ++ f ++ 0b010#3)) ∧
    ∃ t, exec (.pushw r) s = .next t ∧ t.reg 15 = s.reg 15 - 2 ∧
      t.readByte (s.reg 15 - 2) = hob (s.reg r) ∧ t.readByte (s.reg 15 - 1) = lob (s.reg r) ∧
      s.Keeps t [15] [s.reg 15 - 2, s.reg 15 - 1] []

/-- POPB and POPW: the top of the stack is loaded and SP incremented; the destination is written last, which settles a
pop into SP itself (log 11, U7), and POPB keeps its high byte (R132, R134). A 1 in the zero field is a reserved encoding
with the default `STRICT_RESERVED_FIELDS` (log 10, log 9).
The spec's own decisions behind it (spec/92_eei_decisions.md): D1, D2, D7, D8, D34. -/
def Obligations.Pops : Prop :=
  (∀ (d : Reg) (s : State),
    Encodes (0b00111#5 ++ fieldOfReg d ++ 0b0000#4 ++ 0b001#3) (.popb d) ∧
    (∀ f : BitVec 4, f ≠ 0#4 → FaultsAsReserved (0b00111#5 ++ fieldOfReg d ++ f ++ 0b001#3)) ∧
    ∃ t, exec (.popb d) s = .next t ∧
      (if d = 15 then t.reg 15 = wordOfBytes (hob (s.reg 15 + 1)) (s.readByte (s.reg 15))
       else t.reg d = wordOfBytes (hob (s.reg d)) (s.readByte (s.reg 15)) ∧ t.reg 15 = s.reg 15 + 1) ∧
      s.Keeps t [d, 15] [] []) ∧
  ∀ (d : Reg) (s : State),
    Encodes (0b00111#5 ++ fieldOfReg d ++ 0b0000#4 ++ 0b011#3) (.popw d) ∧
    (∀ f : BitVec 4, f ≠ 0#4 → FaultsAsReserved (0b00111#5 ++ fieldOfReg d ++ f ++ 0b011#3)) ∧
    ∃ t, exec (.popw d) s = .next t ∧
      t.reg d = wordOfBytes (s.readByte (s.reg 15)) (s.readByte (s.reg 15 + 1)) ∧
      (d ≠ 15 → t.reg 15 = s.reg 15 + 2) ∧ s.Keeps t [d, 15] [] []

/-- A POPW after a PUSHW returns the pushed value and, unless it loads SP itself, restores SP (R141).
The spec's own decisions behind it (spec/92_eei_decisions.md): D1 (SP pushed or popped, log 11), D34. -/
def Obligations.PopReturnsThePushedWord : Prop :=
  ∀ (r d : Reg) (s : State), ∃ t u, exec (.pushw r) s = .next t ∧ exec (.popw d) t = .next u ∧
    u.reg d = s.reg r ∧ ∀ q, q ≠ d → u.reg q = s.reg q

/-- Word transfers are the source's byte steps. PUSHW of a register other than SP equals them as printed, each reading
the register afresh: the low byte at SP - 1, then the high byte at SP - 2 (R140); PUSHW of SP does not, both its bytes
are of SP before the instruction (log 11, U7), which is the steps on that value. Index-mode LDW into a register other
than IP0 equals its four steps (R119).
The spec's own decisions behind it (spec/92_eei_decisions.md): D1, D34. -/
def Obligations.WordTransfersAreTheirByteSteps : Prop :=
  (∀ (r : Reg) (s : State), r ≠ 15 → ∃ t, exec (.pushw r) s = .next t ∧
    let s1 := s.setReg 15 (s.reg 15 - 1)
    let s2 := s1.writeByte (s1.reg 15) (lob (s1.reg r))
    let s3 := s2.setReg 15 (s2.reg 15 - 1)
    let s4 := s3.writeByte (s3.reg 15) (hob (s3.reg r))
    (∀ q, t.reg q = s4.reg q) ∧ ∀ a, t.readByte a = s4.readByte a) ∧
  (∀ (r : Reg) (s : State), ∃ t, exec (.pushw r) s = .next t ∧
    let s1 := s.setReg 15 (s.reg 15 - 1)
    let s2 := s1.writeByte (s1.reg 15) (lob (s.reg r))
    let s3 := s2.setReg 15 (s2.reg 15 - 1)
    let s4 := s3.writeByte (s3.reg 15) (hob (s.reg r))
    (∀ q, t.reg q = s4.reg q) ∧ ∀ a, t.readByte a = s4.readByte a) ∧
  ∀ (d : Reg) (s : State), d ≠ 12 →
    let s1 := s.setReg d (wordOfBytes (s.readByte (s.reg 12)) (lob (s.reg d)))
    let s2 := s1.setReg 12 (s1.reg 12 + 1)
    let s3 := s2.setReg d (wordOfBytes (hob (s2.reg d)) (s2.readByte (s2.reg 12)))
    let s4 := s3.setReg 12 (s3.reg 12 + 1)
    exec (.ldwIdx d) s = .next s4

/-! ## ALU -/

/-- ADD (R151): the sum modulo 65536; C the carry out of bit 15, O a signed sum out of range; SW's other bits and
everything but the destination and the latches are kept.
The spec's own decisions behind it (spec/92_eei_decisions.md): D10, D11. -/
def Obligations.AddResultAndFlags : Prop :=
  ∀ (d r : Reg) (s : State),
    Encodes (0b01001#5 ++ fieldOfReg d ++ fieldOfReg r ++ 0b000#3) (.add d r) ∧
    ∃ t, exec (.add d r) s = .next t ∧
      (t.reg d).toNat = ((s.reg d).toNat + (s.reg r).toNat) % 65536 ∧
      t.flags = ⟨(t.reg d).getLsbD 15, decide (t.reg d = 0#16), decide (65536 ≤ (s.reg d).toNat + (s.reg r).toNat),
        decide ((s.reg d).toInt + (s.reg r).toInt < -32768 ∨ 32767 < (s.reg d).toInt + (s.reg r).toInt)⟩ ∧
      t.sw.extractLsb' 0 12 = s.sw.extractLsb' 0 12 ∧ s.Keeps t [d] [] [.sw, .latches]

/-- SUB (R152): the difference modulo 65536; C is 1 exactly when there is no borrow (the default
`SUB_CARRY_IS_ADDER_CARRY`), O a signed difference out of range.
The spec's own decisions behind it (spec/92_eei_decisions.md): D10, D12. -/
def Obligations.SubResultAndFlags : Prop :=
  ∀ (d r : Reg) (s : State),
    Encodes (0b01001#5 ++ fieldOfReg d ++ fieldOfReg r ++ 0b001#3) (.sub d r) ∧
    ∃ t, exec (.sub d r) s = .next t ∧
      ((t.reg d).toNat : Int) = ((s.reg d).toNat - (s.reg r).toNat : Int) % 65536 ∧
      t.flags = ⟨(t.reg d).getLsbD 15, decide (t.reg d = 0#16), decide ((s.reg r).toNat ≤ (s.reg d).toNat),
        decide ((s.reg d).toInt - (s.reg r).toInt < -32768 ∨ 32767 < (s.reg d).toInt - (s.reg r).toInt)⟩ ∧
      t.sw.extractLsb' 0 12 = s.sw.extractLsb' 0 12 ∧ s.Keeps t [d] [] [.sw, .latches]

/-- MUL (R153, the default `MULDIV_SIGNED`): `$R8` and `$R9` hold the exact signed product; N and Z describe it, C and O
are 0.
The spec's own decisions behind it (spec/92_eei_decisions.md): D15. -/
def Obligations.MulResultAndFlags : Prop :=
  ∀ (d r : Reg) (s : State),
    Encodes (0b01001#5 ++ fieldOfReg d ++ fieldOfReg r ++ 0b010#3) (.mul d r) ∧
    ∃ t, exec (.mul d r) s = .next t ∧
      (t.reg 8 ++ t.reg 9).toInt = (s.reg d).toInt * (s.reg r).toInt ∧
      t.flags = ⟨decide ((s.reg d).toInt * (s.reg r).toInt < 0), decide ((s.reg d).toInt * (s.reg r).toInt = 0),
        false, false⟩ ∧
      t.sw.extractLsb' 0 12 = s.sw.extractLsb' 0 12 ∧ s.Keeps t [8, 9] [] [.sw, .latches]

/-- DIV (R154, the default `MULDIV_SIGNED`): dividend = quotient * divisor + remainder, the remainder smaller than the
divisor and with the dividend's sign, so the quotient is rounded toward zero; -32768 / -1 gives 0x8000, 0 and O; N and Z
describe the quotient, C is 0. A zero divisor is the fault `DivideByZero` at the instruction's address (R251).
The spec's own decisions behind it (spec/92_eei_decisions.md): D16, D17. -/
def Obligations.DivResultAndFlags : Prop :=
  ∀ (d r : Reg) (s : State),
    Encodes (0b01001#5 ++ fieldOfReg d ++ fieldOfReg r ++ 0b011#3) (.div d r) ∧
    (s.reg r = 0#16 → exec (.div d r) s = .fault (.divideByZero (s.pc - 2))) ∧
    (s.reg r ≠ 0#16 → ∃ t, exec (.div d r) s = .next t ∧
      (if s.reg d = 0x8000#16 ∧ s.reg r = 0xFFFF#16 then t.reg 8 = 0x8000#16 ∧ t.reg 9 = 0#16
       else
        (s.reg d).toInt = (t.reg 8).toInt * (s.reg r).toInt + (t.reg 9).toInt ∧
        (t.reg 9).toInt.natAbs < (s.reg r).toInt.natAbs ∧ 0 ≤ (s.reg d).toInt * (t.reg 9).toInt) ∧
      t.flags = ⟨(t.reg 8).getLsbD 15, decide (t.reg 8 = 0#16), false,
        decide (s.reg d = 0x8000#16 ∧ s.reg r = 0xFFFF#16)⟩ ∧
      t.sw.extractLsb' 0 12 = s.sw.extractLsb' 0 12 ∧ s.Keeps t [8, 9] [] [.sw, .latches])

/-- AND, OR, XOR and NOT act bit by bit; N and Z describe the result, C and O are 0 (R155 to R158).
The spec's own decisions behind it (spec/92_eei_decisions.md): D7 and D8 (the zero field of NOT), D10, D13. -/
def Obligations.LogicResultsAndFlags : Prop :=
  (∀ (d r : Reg) (s : State),
    Encodes (0b01001#5 ++ fieldOfReg d ++ fieldOfReg r ++ 0b100#3) (.bitAnd d r) ∧
    ∃ t, exec (.bitAnd d r) s = .next t ∧
      (∀ k, (t.reg d).getLsbD k = ((s.reg d).getLsbD k && (s.reg r).getLsbD k)) ∧
      t.flags = ⟨(t.reg d).getLsbD 15, decide (t.reg d = 0#16), false, false⟩ ∧
      t.sw.extractLsb' 0 12 = s.sw.extractLsb' 0 12 ∧ s.Keeps t [d] [] [.sw, .latches]) ∧
  (∀ (d r : Reg) (s : State),
    Encodes (0b01001#5 ++ fieldOfReg d ++ fieldOfReg r ++ 0b101#3) (.bitOr d r) ∧
    ∃ t, exec (.bitOr d r) s = .next t ∧
      (∀ k, (t.reg d).getLsbD k = ((s.reg d).getLsbD k || (s.reg r).getLsbD k)) ∧
      t.flags = ⟨(t.reg d).getLsbD 15, decide (t.reg d = 0#16), false, false⟩ ∧
      t.sw.extractLsb' 0 12 = s.sw.extractLsb' 0 12 ∧ s.Keeps t [d] [] [.sw, .latches]) ∧
  (∀ (d r : Reg) (s : State),
    Encodes (0b01001#5 ++ fieldOfReg d ++ fieldOfReg r ++ 0b110#3) (.bitXor d r) ∧
    ∃ t, exec (.bitXor d r) s = .next t ∧
      (∀ k, (t.reg d).getLsbD k = ((s.reg d).getLsbD k != (s.reg r).getLsbD k)) ∧
      t.flags = ⟨(t.reg d).getLsbD 15, decide (t.reg d = 0#16), false, false⟩ ∧
      t.sw.extractLsb' 0 12 = s.sw.extractLsb' 0 12 ∧ s.Keeps t [d] [] [.sw, .latches]) ∧
  ∀ (d : Reg) (s : State),
    Encodes (0b01001#5 ++ fieldOfReg d ++ 0b0000#4 ++ 0b111#3) (.bitNot d) ∧
    (∀ f : BitVec 4, f ≠ 0#4 → FaultsAsReserved (0b01001#5 ++ fieldOfReg d ++ f ++ 0b111#3)) ∧
    ∃ t, exec (.bitNot d) s = .next t ∧
      (∀ k, k < 16 → (t.reg d).getLsbD k = !(s.reg d).getLsbD k) ∧
      t.flags = ⟨(t.reg d).getLsbD 15, decide (t.reg d = 0#16), false, false⟩ ∧
      t.sw.extractLsb' 0 12 = s.sw.extractLsb' 0 12 ∧ s.Keeps t [d] [] [.sw, .latches]

/-- SHL doubles and SHR halves the second register into the first (R159, R160 with the default parameters); C is the
bit shifted out, O is 0, and N is 0 after SHR.
The spec's own decisions behind it (spec/92_eei_decisions.md): D8 (the reserved mode values), D14. -/
def Obligations.ShiftResultsAndFlags : Prop :=
  (∀ (d r : Reg) (s : State),
    Encodes (0b01000#5 ++ fieldOfReg d ++ fieldOfReg r ++ 0b000#3) (.shl d r) ∧
    (∀ m : BitVec 3, m ≠ 0#3 → FaultsAsReserved (0b01000#5 ++ fieldOfReg d ++ fieldOfReg r ++ m)) ∧
    ∃ t, exec (.shl d r) s = .next t ∧
      (t.reg d).toNat = 2 * (s.reg r).toNat % 65536 ∧
      t.flags = ⟨(t.reg d).getLsbD 15, decide (t.reg d = 0#16), decide (32768 ≤ (s.reg r).toNat), false⟩ ∧
      t.sw.extractLsb' 0 12 = s.sw.extractLsb' 0 12 ∧ s.Keeps t [d] [] [.sw, .latches]) ∧
  ∀ (d r : Reg) (s : State),
    Encodes (0b01010#5 ++ fieldOfReg d ++ fieldOfReg r ++ 0b000#3) (.shr d r) ∧
    (∀ m : BitVec 3, m ≠ 0#3 → FaultsAsReserved (0b01010#5 ++ fieldOfReg d ++ fieldOfReg r ++ m)) ∧
    ∃ t, exec (.shr d r) s = .next t ∧
      (t.reg d).toNat = (s.reg r).toNat / 2 ∧
      t.flags = ⟨false, decide (t.reg d = 0#16), decide ((s.reg r).toNat % 2 = 1), false⟩ ∧
      t.sw.extractLsb' 0 12 = s.sw.extractLsb' 0 12 ∧ s.Keeps t [d] [] [.sw, .latches]

/-- The ALU latches (R33, R150): an ALU instruction with two register fields latches both operands as they were before
the write, and its destination is a copy of R: the low half of R for a 16-bit result, the two halves of R in `$R8` and
`$R9` for MUL and DIV. The width and layout of R are the model's (log 6).
The spec's own decisions behind it (spec/92_eei_decisions.md): D1, D40. -/
def Obligations.AluLatchesHoldOperandsAndResult : Prop :=
  ∀ (d r : Reg) (s t : State),
    (∀ i ∈ [Instr.add d r, .sub d r, .bitAnd d r, .bitOr d r, .bitXor d r, .shl d r, .shr d r],
      exec i s = .next t → t.aluA = s.reg d ∧ t.aluB = s.reg r ∧ t.reg d = t.aluR.extractLsb' 0 16) ∧
    ∀ i ∈ [Instr.mul d r, .div d r],
      exec i s = .next t →
        t.aluA = s.reg d ∧ t.aluB = s.reg r ∧ t.reg 8 = t.aluR.extractLsb' 16 16 ∧ t.reg 9 = t.aluR.extractLsb' 0 16

/-! ## Control -/

/-- BR: `pc` becomes itself plus the signed byte offset, unscaled, modulo 65536, or a register's value; nothing else
changes (R181, R182, R193). A 1 in the register form's zero bits is a reserved encoding with the default
`STRICT_RESERVED_FIELDS` (log 10, log 9).
The spec's own decisions behind it (spec/92_eei_decisions.md): D3, D7, D8, D18. -/
def Obligations.UnconditionalBranches : Prop :=
  (∀ (off : BitVec 11) (s : State),
    Encodes (0b10000#5 ++ off) (.brImm off) ∧
    ∃ t, exec (.brImm off) s = .next t ∧
      (t.pc.toNat : Int) = ((s.pc.toNat : Int) + off.toInt) % 65536 ∧ s.Keeps t [] [] [.pc]) ∧
  ∀ (r : Reg) (s : State),
    Encodes (0b10001#5 ++ fieldOfReg r ++ 0b0000000#7) (.brReg r) ∧
    (∀ z : BitVec 7, z ≠ 0#7 → FaultsAsReserved (0b10001#5 ++ fieldOfReg r ++ z)) ∧
    ∃ t, exec (.brReg r) s = .next t ∧ t.pc = s.reg r ∧ s.Keeps t [] [] [.pc]

/-- BRn, BRz, BRc, BRo, immediate form: taken when the flag is 1, to `pc` plus the signed byte offset modulo 65536;
otherwise nothing happens (R183, R190).
The spec's own decisions behind it (spec/92_eei_decisions.md): D18, D19. -/
def Obligations.ConditionalLocalBranches : Prop :=
  ∀ (off : BitVec 9) (s : State),
    (Encodes (0b10010#5 ++ off ++ 0b00#2) (.brnImm off) ∧ ∃ t, exec (.brnImm off) s = .next t ∧
      (t.pc.toNat : Int) = ((s.pc.toNat : Int) + (if s.sw.getLsbD 15 then off.toInt else 0)) % 65536 ∧
      s.Keeps t [] [] [.pc]) ∧
    (Encodes (0b10010#5 ++ off ++ 0b01#2) (.brzImm off) ∧ ∃ t, exec (.brzImm off) s = .next t ∧
      (t.pc.toNat : Int) = ((s.pc.toNat : Int) + (if s.sw.getLsbD 14 then off.toInt else 0)) % 65536 ∧
      s.Keeps t [] [] [.pc]) ∧
    (Encodes (0b10010#5 ++ off ++ 0b10#2) (.brcImm off) ∧ ∃ t, exec (.brcImm off) s = .next t ∧
      (t.pc.toNat : Int) = ((s.pc.toNat : Int) + (if s.sw.getLsbD 13 then off.toInt else 0)) % 65536 ∧
      s.Keeps t [] [] [.pc]) ∧
    (Encodes (0b10010#5 ++ off ++ 0b11#2) (.broImm off) ∧ ∃ t, exec (.broImm off) s = .next t ∧
      (t.pc.toNat : Int) = ((s.pc.toNat : Int) + (if s.sw.getLsbD 12 then off.toInt else 0)) % 65536 ∧
      s.Keeps t [] [] [.pc])

/-- BRn, BRz, BRc, BRo, register form: taken when the flag is 1, to the register's value; otherwise nothing happens
(R184, R190).
The spec's own decisions behind it (spec/92_eei_decisions.md): D7, D8, D19. -/
def Obligations.ConditionalLongBranches : Prop :=
  ∀ (r : Reg) (s : State),
    (∀ (z : BitVec 5) (cc : BitVec 2), z ≠ 0#5 → FaultsAsReserved (0b10011#5 ++ fieldOfReg r ++ z ++ cc)) ∧
    (Encodes (0b10011#5 ++ fieldOfReg r ++ 0b00000#5 ++ 0b00#2) (.brnReg r) ∧ ∃ t, exec (.brnReg r) s = .next t ∧
      t.pc = (if s.sw.getLsbD 15 then s.reg r else s.pc) ∧ s.Keeps t [] [] [.pc]) ∧
    (Encodes (0b10011#5 ++ fieldOfReg r ++ 0b00000#5 ++ 0b01#2) (.brzReg r) ∧ ∃ t, exec (.brzReg r) s = .next t ∧
      t.pc = (if s.sw.getLsbD 14 then s.reg r else s.pc) ∧ s.Keeps t [] [] [.pc]) ∧
    (Encodes (0b10011#5 ++ fieldOfReg r ++ 0b00000#5 ++ 0b10#2) (.brcReg r) ∧ ∃ t, exec (.brcReg r) s = .next t ∧
      t.pc = (if s.sw.getLsbD 13 then s.reg r else s.pc) ∧ s.Keeps t [] [] [.pc]) ∧
    (Encodes (0b10011#5 ++ fieldOfReg r ++ 0b00000#5 ++ 0b11#2) (.broReg r) ∧ ∃ t, exec (.broReg r) s = .next t ∧
      t.pc = (if s.sw.getLsbD 12 then s.reg r else s.pc) ∧ s.Keeps t [] [] [.pc])

/-- JSR: the return address is pushed, and `pc` becomes the value the register had before the push, SP itself too (log
11, U7) (R185). A 1 in the zero bits is a reserved encoding with the default `STRICT_RESERVED_FIELDS` (log 10, log 9).
The spec's own decisions behind it (spec/92_eei_decisions.md): D1, D7, D8, D34. -/
def Obligations.SubroutineCall : Prop :=
  ∀ (r : Reg) (s : State),
    Encodes (0b10100#5 ++ fieldOfReg r ++ 0b0000000#7) (.jsr r) ∧
    (∀ z : BitVec 7, z ≠ 0#7 → FaultsAsReserved (0b10100#5 ++ fieldOfReg r ++ z)) ∧
    ∃ t, exec (.jsr r) s = .next t ∧ t.pc = s.reg r ∧ t.reg 15 = s.reg 15 - 2 ∧
      t.readByte (s.reg 15 - 2) = hob s.pc ∧ t.readByte (s.reg 15 - 1) = lob s.pc ∧
      s.Keeps t [15] [s.reg 15 - 2, s.reg 15 - 1] [.pc]

/-- JSRn, JSRz, JSRc, JSRo: exactly JSR when the flag is 1, nothing at all when it is 0 (R186, R190).
The spec's own decisions behind it (spec/92_eei_decisions.md): D1, D7, D8, D20. -/
def Obligations.ConditionalCalls : Prop :=
  ∀ (r : Reg) (s : State),
    (∀ (z : BitVec 5) (cc : BitVec 2), z ≠ 0#5 → FaultsAsReserved (0b10101#5 ++ fieldOfReg r ++ z ++ cc)) ∧
    (Encodes (0b10101#5 ++ fieldOfReg r ++ 0b00000#5 ++ 0b00#2) (.jsrn r) ∧ ∃ t, exec (.jsrn r) s = .next t ∧
      if s.sw.getLsbD 15 then exec (.jsr r) s = .next t else s.Keeps t [] [] []) ∧
    (Encodes (0b10101#5 ++ fieldOfReg r ++ 0b00000#5 ++ 0b01#2) (.jsrz r) ∧ ∃ t, exec (.jsrz r) s = .next t ∧
      if s.sw.getLsbD 14 then exec (.jsr r) s = .next t else s.Keeps t [] [] []) ∧
    (Encodes (0b10101#5 ++ fieldOfReg r ++ 0b00000#5 ++ 0b10#2) (.jsrc r) ∧ ∃ t, exec (.jsrc r) s = .next t ∧
      if s.sw.getLsbD 13 then exec (.jsr r) s = .next t else s.Keeps t [] [] []) ∧
    (Encodes (0b10101#5 ++ fieldOfReg r ++ 0b00000#5 ++ 0b11#2) (.jsro r) ∧ ∃ t, exec (.jsro r) s = .next t ∧
      if s.sw.getLsbD 12 then exec (.jsr r) s = .next t else s.Keeps t [] [] [])

/-- TRAP: the return address and then SW, its reserved bits 0 (log 17), are pushed, and `pc` becomes 0x2100 plus the
signed byte offset; SW is not changed (R187, R252, R265 with the default `TRAP_VECTOR_INDIRECT`, log 10). A 1 in the
zero bits is a reserved encoding with the default `STRICT_RESERVED_FIELDS` (log 10, log 9).
The spec's own decisions behind it (spec/92_eei_decisions.md): D7, D8, D21, D27. -/
def Obligations.TrapEntersTheVectorTable : Prop :=
  ∀ (v : BitVec 6) (s : State),
    Encodes (0b10110#5 ++ v ++ 0b00000#5) (.trap v) ∧
    (∀ z : BitVec 5, z ≠ 0#5 → FaultsAsReserved (0b10110#5 ++ v ++ z)) ∧
    ∃ t, exec (.trap v) s = .next t ∧ (t.pc.toNat : Int) = 0x2100 + v.toInt ∧ t.reg 15 = s.reg 15 - 4 ∧
      t.readByte (s.reg 15 - 4) = hob (s.sw &&& 0xF0FF#16) ∧ t.readByte (s.reg 15 - 3) = lob s.sw ∧
      t.readByte (s.reg 15 - 2) = hob s.pc ∧ t.readByte (s.reg 15 - 1) = lob s.pc ∧
      s.Keeps t [15] [s.reg 15 - 4, s.reg 15 - 3, s.reg 15 - 2, s.reg 15 - 1] [.pc]

/-- RET pops `pc`; RETI pops SW, dropping its reserved bits (log 17), and then `pc` (R188, R189). A 1 in bits 10:1 is a
reserved encoding with the default `STRICT_RESERVED_FIELDS` (log 10, log 9).
The spec's own decisions behind it (spec/92_eei_decisions.md): D7, D8, D27. -/
def Obligations.Returns : Prop :=
  (∀ s : State,
    Encodes 0xB800#16 .ret ∧
    (∀ (z : BitVec 10) (f : BitVec 1), z ≠ 0#10 → FaultsAsReserved (0b10111#5 ++ z ++ f)) ∧
    ∃ t, exec .ret s = .next t ∧ t.pc = wordOfBytes (s.readByte (s.reg 15)) (s.readByte (s.reg 15 + 1)) ∧
      t.reg 15 = s.reg 15 + 2 ∧ s.Keeps t [15] [] [.pc]) ∧
  ∀ s : State,
    Encodes 0xB801#16 .reti ∧
    ∃ t, exec .reti s = .next t ∧
      t.sw = wordOfBytes (s.readByte (s.reg 15)) (s.readByte (s.reg 15 + 1)) &&& 0xF0FF#16 ∧
      t.pc = wordOfBytes (s.readByte (s.reg 15 + 2)) (s.readByte (s.reg 15 + 3)) ∧
      t.reg 15 = s.reg 15 + 4 ∧ s.Keeps t [15] [] [.pc, .sw]

/-- A RET right after a call comes back to the instruction after the call with SP restored (R192); a RETI right after a
TRAP resumes the caller, with `pc`, SW and every register as they were, and memory but for the frame (R263). -/
def Obligations.ReturnsUndoTheirEntries : Prop :=
  (∀ (r : Reg) (s : State), ∃ t u, exec (.jsr r) s = .next t ∧ exec .ret t = .next u ∧
    u.pc = s.pc ∧ ∀ q, u.reg q = s.reg q) ∧
  ∀ (v : BitVec 6) (s : State), s.sw.extractLsb' 8 4 = 0#4 →
    ∃ t u, exec (.trap v) s = .next t ∧ exec .reti t = .next u ∧
      s.Keeps u [] [s.reg 15 - 4, s.reg 15 - 3, s.reg 15 - 2, s.reg 15 - 1] []

/-! ## Interrupts -/

/-- The vector table as printed, with its step from 0x2108 to 0x2110 (R255), and the entry address of each of the eight
devices by name, its number's (R217).
The spec's own decisions behind it (spec/92_eei_decisions.md): D22. -/
def Obligations.VectorTableAsPrinted : Prop :=
  [ivtEntry 0, ivtEntry 1, ivtEntry 2, ivtEntry 3, ivtEntry 4, ivtEntry 5, ivtEntry 6, ivtEntry 7] =
    [0x2100#16, 0x2102#16, 0x2104#16, 0x2106#16, 0x2108#16, 0x2110#16, 0x2112#16, 0x2114#16] ∧
  Device.vector .pit0 = 0x2100#16 ∧ Device.vector .adc = 0x2102#16 ∧ Device.vector .pit1 = 0x2104#16 ∧
  Device.vector .sio1 = 0x2106#16 ∧ Device.vector .sio2 = 0x2108#16 ∧ Device.vector .pio0 = 0x2110#16 ∧
  Device.vector .vid = 0x2112#16 ∧ Device.vector .kbd = 0x2114#16 ∧
  ∀ d : Device, d.vector = ivtEntry d.number

/-- When the clock runs and an enabled line requests, the step enters the lowest such line instead of fetching: the
frame is pushed, with SW's reserved bits 0 (log 17), `pc` becomes the table's entry, SW is unchanged, and the device side
observes the entry (R256, R257, R258, R260, R265 with the default `IRQ_AUTO_MASK` and `TRAP_VECTOR_INDIRECT`, log 10, log 12).
The history that records the entry, newest first (log 20), and the script of answers it leaves alone (log 4) are the model's
own.
The spec's own decisions behind it (spec/92_eei_decisions.md): D21, D22, D23, D24, D25, D27. -/
def Obligations.InterruptEntersTheLowestEnabledLine : Prop :=
  ∀ (s : State) (n : Fin 8), s.rb = true → s.sw.getLsbD n.val = true → s.irqLines.getLsbD n.val = true →
    (∀ m : Fin 8, m < n → ¬(s.sw.getLsbD m.val = true ∧ s.irqLines.getLsbD m.val = true)) →
    ∃ t, step s = .next t ∧ t.pc = ivtEntry n ∧ t.reg 15 = s.reg 15 - 4 ∧
      t.readByte (s.reg 15 - 4) = hob (s.sw &&& 0xF0FF#16) ∧ t.readByte (s.reg 15 - 3) = lob s.sw ∧
      t.readByte (s.reg 15 - 2) = hob s.pc ∧ t.readByte (s.reg 15 - 1) = lob s.pc ∧
      t.events = .entry n :: s.events ∧ t.portFeed = s.portFeed ∧
      s.Keeps t [15] [s.reg 15 - 4, s.reg 15 - 3, s.reg 15 - 2, s.reg 15 - 1] [.pc, .devices, .lines]

/-- All interrupts are off exactly when the enable field is 0 (R254).
The spec's own decisions behind it (spec/92_eei_decisions.md): D24, D26. -/
def Obligations.InterruptsAreOffExactlyWhenAllDisabled : Prop :=
  ∀ s : State, s.sw.extractLsb' 0 8 = 0#8 ↔
    ∀ lines : BitVec 8, ({ s with irqLines := lines } : State).pendingLine = none

/-- A line held asserted is taken again at the next boundary, before the handler's first instruction: another frame of
four bytes, whose return address is the entry (R259 with the default `IRQ_AUTO_MASK`).
The spec's own decisions behind it (spec/92_eei_decisions.md): D25; the script that holds the line is the model's (log
4). -/
def Obligations.HeldLineIsTakenAgain : Prop :=
  ∀ (s : State) (n : Fin 8) (l : BitVec 8) (rest : List (BitVec 8)), s.rb = true →
    s.pendingLine = some n → s.irqFeed = l :: rest → ({ s with irqLines := l } : State).pendingLine = some n →
    ∃ t u, step s = .next t ∧ step t = .next u ∧ u.pc = ivtEntry n ∧ u.reg 15 = s.reg 15 - 8 ∧
      u.readWord (s.reg 15 - 6) = ivtEntry n ∧ u.readWord (s.reg 15 - 2) = s.pc

/-- An interrupt is precise and RETI resumes it: after entry, RETI restores `pc`, SW and every register as they stood at
the boundary, and memory but for the frame (R262, R263).
The spec's own decisions behind it (spec/92_eei_decisions.md): D23, D25. -/
def Obligations.RetiResumesTheInterruptedProgram : Prop :=
  ∀ (s : State) (n : Fin 8), s.rb = true → s.pendingLine = some n → s.sw.extractLsb' 8 4 = 0#4 →
    ∃ t u, step s = .next t ∧ exec .reti t = .next u ∧
      s.Keeps u [] [s.reg 15 - 4, s.reg 15 - 3, s.reg 15 - 2, s.reg 15 - 1] [.devices, .lines]

/-! ## I/O and miscellaneous -/

/-- IN: the device side's byte goes to the low byte of the destination, the high byte is kept, and the read enters the
history. The byte is the scripted one when there is one, and a free value otherwise (R214, R212, R216). The history, newest
first (log 20), and the script (log 4) are the model's own.
The spec's own decisions behind it (spec/92_eei_decisions.md): D2, D32. -/
def Obligations.PortInput : Prop :=
  ∀ (d : Reg) (p : Nat) (s : State),
    (∀ q : BitVec 6, Encodes (0b11000#5 ++ fieldOfReg d ++ q ++ 0b0#1) (.portIn d q.toNat)) ∧
    ∃ t b, exec (.portIn d p) s = .next t ∧ t.reg d = wordOfBytes (hob (s.reg d)) b ∧
      t.events = .read p b :: s.events ∧ t.portFeed = s.portFeed.tail ∧
      (∀ c rest, s.portFeed = c :: rest → b = c) ∧ s.Keeps t [d] [] [.devices]

/-- OUT: the low byte of the source is delivered to the port, in program order; nothing else changes (R215, R213). The
history that holds it, newest first (log 20), and the script of answers it leaves alone (log 4) are the model's own
record.
The spec's own decisions behind it (spec/92_eei_decisions.md): D31, D32. -/
def Obligations.PortOutput : Prop :=
  ∀ (r : Reg) (p : Nat) (s : State),
    (∀ q : BitVec 6, Encodes (0b11000#5 ++ fieldOfReg r ++ q ++ 0b1#1) (.portOut r q.toNat)) ∧
    ∃ t, exec (.portOut r p) s = .next t ∧ t.events = .write p (lob (s.reg r)) :: s.events ∧
      t.portFeed = s.portFeed ∧
      (∀ k, t.delivered k = if k = p then lob (s.reg r) :: s.delivered k else s.delivered k) ∧
      s.Keeps t [] [] [.devices]

/-- The device table and the port table as printed: the number and the base port of each of the eight devices, base = 8
times the number (R217), and the 20 registers the spec lists, each at its port and of its device, with none at any other
port (R218, R221). So every listed register lies in its device's block of eight, and no two ports hold the same one. -/
def Obligations.DevicePortBlocks : Prop :=
  ([Device.pit0, .adc, .pit1, .sio1, .sio2, .pio0, .vid, .kbd].map fun d => (d.number.val, d.basePort)) =
    [(0, 0x00), (1, 0x08), (2, 0x10), (3, 0x18), (4, 0x20), (5, 0x28), (6, 0x30), (7, 0x38)] ∧
  (∀ p d r, portRegister p = some (d, r) ↔ (p, d, r) ∈
    [(0x00, Device.pit0, PortRegister.counter), (0x01, .pit0, .status), (0x02, .pit0, .timerIntCtrl),
      (0x08, .adc, .ctrl), (0x09, .adc, .status), (0x0A, .adc, .data), (0x0B, .adc, .channel),
      (0x10, .pit1, .counter), (0x11, .pit1, .status), (0x12, .pit1, .timerIntCtrl),
      (0x28, .pio0, .status), (0x29, .pio0, .ctrl), (0x2A, .pio0, .data),
      (0x30, .vid, .status), (0x31, .vid, .ctrl), (0x32, .vid, .data),
      (0x38, .kbd, .status), (0x39, .kbd, .ctrl), (0x3A, .kbd, .data), (0x3B, .kbd, .data1)]) ∧
  (∀ d : Device, d.basePort = 8 * d.number.val) ∧
  (∀ p d r, portRegister p = some (d, r) → d.basePort ≤ p ∧ p < d.basePort + 8 ∧ p < 64) ∧
  ∀ p q e, portRegister p = some e → portRegister q = some e → p = q

/-- EI sets and DI keeps the enables of the operand, bit by bit; SW bits 15:8 and everything else are unchanged (R231,
R232).
The spec's own decisions behind it (spec/92_eei_decisions.md): D35. -/
def Obligations.InterruptEnableAndDisable : Prop :=
  (∀ (m : Byte) (s : State),
    Encodes (0b11001#5 ++ m ++ 0b000#3) (.ei m) ∧
    ∃ t, exec (.ei m) s = .next t ∧
      (∀ k, k < 16 → t.sw.getLsbD k = if k < 8 then m.getLsbD k || s.sw.getLsbD k else s.sw.getLsbD k) ∧
      s.Keeps t [] [] [.sw]) ∧
  ∀ (m : Byte) (s : State),
    Encodes (0b11001#5 ++ m ++ 0b001#3) (.di m) ∧
    ∃ t, exec (.di m) s = .next t ∧
      (∀ k, k < 16 → t.sw.getLsbD k = if k < 8 then m.getLsbD k && s.sw.getLsbD k else s.sw.getLsbD k) ∧
      s.Keeps t [] [] [.sw]

/-- HALT clears RB and changes nothing else; NOP changes nothing (R233, R234). A 1 in the zero bits of either is a
reserved encoding with the default `STRICT_RESERVED_FIELDS` (log 10, log 9).
The spec's own decisions behind it (spec/92_eei_decisions.md): D7, D8. -/
def Obligations.HaltAndNop : Prop :=
  (∀ s : State, Encodes 0xD000#16 .halt ∧
    (∀ z : BitVec 11, z ≠ 0#11 → FaultsAsReserved (0b11010#5 ++ z)) ∧
    ∃ t, exec .halt s = .next t ∧ t.rb = false ∧ s.Keeps t [] [] [.rb]) ∧
  ∀ s : State, Encodes 0xD800#16 .nop ∧
    (∀ z : BitVec 11, z ≠ 0#11 → FaultsAsReserved (0b11011#5 ++ z)) ∧
    ∃ t, exec .nop s = .next t ∧ s.Keeps t [] [] []

/-- LDOS and LDRO: the boundary becomes `pc` plus the signed byte offset modulo 65536; nothing else changes (R235,
R236). -/
def Obligations.BoundaryLoads : Prop :=
  (∀ (off : BitVec 11) (s : State),
    Encodes (0b11100#5 ++ off) (.ldos off) ∧
    ∃ t, exec (.ldos off) s = .next t ∧
      (t.osb.toNat : Int) = ((s.pc.toNat : Int) + off.toInt) % 65536 ∧ s.Keeps t [] [] [.osb]) ∧
  ∀ (off : BitVec 11) (s : State),
    Encodes (0b11101#5 ++ off) (.ldro off) ∧
    ∃ t, exec (.ldro off) s = .next t ∧
      (t.txb.toNat : Int) = ((s.pc.toNat : Int) + off.toInt) % 65536 ∧ s.Keeps t [] [] [.txb]
end

