-- ==== Sys2Proof/Laws/Decode.lean ====
section
/-! SUPPORT. The fields of an encoded word, format by format (spec/30_encoding.md R81, R82), and the two halves of a
word. -/

namespace Sys2Proof

@[simp] theorem hob_wordOfBytes (x y : Byte) : hob (wordOfBytes x y) = x := by
  apply BitVec.eq_of_getLsbD_eq
  intro i hi
  simp only [hob, wordOfBytes, BitVec.getLsbD_append, BitVec.getLsbD_extractLsb']
  interval_cases i <;> simp

@[simp] theorem lob_wordOfBytes (x y : Byte) : lob (wordOfBytes x y) = y := by
  apply BitVec.eq_of_getLsbD_eq
  intro i hi
  simp only [lob, wordOfBytes, BitVec.getLsbD_append, BitVec.getLsbD_extractLsb']
  interval_cases i <;> simp

@[simp] theorem wordOfBytes_hob_lob (v : Word) : wordOfBytes (hob v) (lob v) = v := by
  apply BitVec.eq_of_getLsbD_eq
  intro i hi
  simp only [wordOfBytes, hob, lob, BitVec.getLsbD_append, BitVec.getLsbD_extractLsb']
  interval_cases i <;> simp

@[simp] theorem regOfField_fieldOfReg (r : Reg) : regOfField (fieldOfReg r) = r := rfl

@[simp] theorem fieldOfReg_regOfField (b : BitVec 4) : fieldOfReg (regOfField b) = b := rfl

@[simp] theorem opField_encRRM (op : BitVec 5) (r1 r2 : Reg) (m : BitVec 3) : opField (encRRM op r1 r2 m) = op := by
  apply BitVec.eq_of_getLsbD_eq
  intro i hi
  simp only [opField, encRRM, BitVec.getLsbD_append, BitVec.getLsbD_extractLsb']
  interval_cases i <;> simp

@[simp] theorem r1Field_encRRM (op : BitVec 5) (r1 r2 : Reg) (m : BitVec 3) : r1Field (encRRM op r1 r2 m) = fieldOfReg r1 := by
  apply BitVec.eq_of_getLsbD_eq
  intro i hi
  simp only [r1Field, encRRM, BitVec.getLsbD_append, BitVec.getLsbD_extractLsb']
  interval_cases i <;> simp

@[simp] theorem r2Field_encRRM (op : BitVec 5) (r1 r2 : Reg) (m : BitVec 3) : r2Field (encRRM op r1 r2 m) = fieldOfReg r2 := by
  apply BitVec.eq_of_getLsbD_eq
  intro i hi
  simp only [r2Field, encRRM, BitVec.getLsbD_append, BitVec.getLsbD_extractLsb']
  interval_cases i <;> simp

@[simp] theorem modeField_encRRM (op : BitVec 5) (r1 r2 : Reg) (m : BitVec 3) : modeField (encRRM op r1 r2 m) = m := by
  apply BitVec.eq_of_getLsbD_eq
  intro i hi
  simp only [modeField, encRRM, BitVec.getLsbD_append, BitVec.getLsbD_extractLsb']
  interval_cases i <;> simp

@[simp] theorem opField_encRM (op : BitVec 5) (r1 : Reg) (m : BitVec 3) : opField (encRM op r1 m) = op := by
  apply BitVec.eq_of_getLsbD_eq
  intro i hi
  simp only [opField, encRM, BitVec.getLsbD_append, BitVec.getLsbD_extractLsb']
  interval_cases i <;> simp

@[simp] theorem r1Field_encRM (op : BitVec 5) (r1 : Reg) (m : BitVec 3) : r1Field (encRM op r1 m) = fieldOfReg r1 := by
  apply BitVec.eq_of_getLsbD_eq
  intro i hi
  simp only [r1Field, encRM, BitVec.getLsbD_append, BitVec.getLsbD_extractLsb']
  interval_cases i <;> simp

@[simp] theorem r2Field_encRM (op : BitVec 5) (r1 : Reg) (m : BitVec 3) : r2Field (encRM op r1 m) = 0#4 := by
  apply BitVec.eq_of_getLsbD_eq
  intro i hi
  simp only [r2Field, encRM, BitVec.getLsbD_append, BitVec.getLsbD_extractLsb']
  interval_cases i <;> simp

@[simp] theorem modeField_encRM (op : BitVec 5) (r1 : Reg) (m : BitVec 3) : modeField (encRM op r1 m) = m := by
  apply BitVec.eq_of_getLsbD_eq
  intro i hi
  simp only [modeField, encRM, BitVec.getLsbD_append, BitVec.getLsbD_extractLsb']
  interval_cases i <;> simp

@[simp] theorem opField_encI7 (op : BitVec 5) (r1 : Reg) (v : BitVec 7) : opField (encI7 op r1 v) = op := by
  apply BitVec.eq_of_getLsbD_eq
  intro i hi
  simp only [opField, encI7, BitVec.getLsbD_append, BitVec.getLsbD_extractLsb']
  interval_cases i <;> simp

@[simp] theorem r1Field_encI7 (op : BitVec 5) (r1 : Reg) (v : BitVec 7) : r1Field (encI7 op r1 v) = fieldOfReg r1 := by
  apply BitVec.eq_of_getLsbD_eq
  intro i hi
  simp only [r1Field, encI7, BitVec.getLsbD_append, BitVec.getLsbD_extractLsb']
  interval_cases i <;> simp

@[simp] theorem immed7Field_encI7 (op : BitVec 5) (r1 : Reg) (v : BitVec 7) : immed7Field (encI7 op r1 v) = v := by
  apply BitVec.eq_of_getLsbD_eq
  intro i hi
  simp only [immed7Field, encI7, BitVec.getLsbD_append, BitVec.getLsbD_extractLsb']
  interval_cases i <;> simp

@[simp] theorem opField_encI11 (op : BitVec 5) (v : BitVec 11) : opField (encI11 op v) = op := by
  apply BitVec.eq_of_getLsbD_eq
  intro i hi
  simp only [opField, encI11, BitVec.getLsbD_append, BitVec.getLsbD_extractLsb']
  interval_cases i <;> simp

@[simp] theorem immed11Field_encI11 (op : BitVec 5) (v : BitVec 11) : immed11Field (encI11 op v) = v := by
  apply BitVec.eq_of_getLsbD_eq
  intro i hi
  simp only [immed11Field, encI11, BitVec.getLsbD_append, BitVec.getLsbD_extractLsb']
  interval_cases i <;> simp

@[simp] theorem dirField_encI11 (op : BitVec 5) (v : BitVec 11) : dirField (encI11 op v) = v.extractLsb' 0 1 := by
  apply BitVec.eq_of_getLsbD_eq
  intro i hi
  simp only [dirField, encI11, BitVec.getLsbD_append, BitVec.getLsbD_extractLsb']
  interval_cases i
  simp

@[simp] theorem retZeroField_encI11 (op : BitVec 5) (v : BitVec 11) : retZeroField (encI11 op v) = v.extractLsb' 1 10 := by
  apply BitVec.eq_of_getLsbD_eq
  intro i hi
  simp only [retZeroField, encI11, BitVec.getLsbD_append, BitVec.getLsbD_extractLsb']
  interval_cases i <;> simp

@[simp] theorem opField_encI9C (op : BitVec 5) (v : BitVec 9) (cc : BitVec 2) : opField (encI9C op v cc) = op := by
  apply BitVec.eq_of_getLsbD_eq
  intro i hi
  simp only [opField, encI9C, BitVec.getLsbD_append, BitVec.getLsbD_extractLsb']
  interval_cases i <;> simp

@[simp] theorem immed9Field_encI9C (op : BitVec 5) (v : BitVec 9) (cc : BitVec 2) : immed9Field (encI9C op v cc) = v := by
  apply BitVec.eq_of_getLsbD_eq
  intro i hi
  simp only [immed9Field, encI9C, BitVec.getLsbD_append, BitVec.getLsbD_extractLsb']
  interval_cases i <;> simp

@[simp] theorem ccField_encI9C (op : BitVec 5) (v : BitVec 9) (cc : BitVec 2) : ccField (encI9C op v cc) = cc := by
  apply BitVec.eq_of_getLsbD_eq
  intro i hi
  simp only [ccField, encI9C, BitVec.getLsbD_append, BitVec.getLsbD_extractLsb']
  interval_cases i <;> simp

@[simp] theorem opField_encRC (op : BitVec 5) (r1 : Reg) (cc : BitVec 2) : opField (encRC op r1 cc) = op := by
  apply BitVec.eq_of_getLsbD_eq
  intro i hi
  simp only [opField, encRC, BitVec.getLsbD_append, BitVec.getLsbD_extractLsb']
  interval_cases i <;> simp

@[simp] theorem r1Field_encRC (op : BitVec 5) (r1 : Reg) (cc : BitVec 2) : r1Field (encRC op r1 cc) = fieldOfReg r1 := by
  apply BitVec.eq_of_getLsbD_eq
  intro i hi
  simp only [r1Field, encRC, BitVec.getLsbD_append, BitVec.getLsbD_extractLsb']
  interval_cases i <;> simp

@[simp] theorem rcZeroField_encRC (op : BitVec 5) (r1 : Reg) (cc : BitVec 2) : rcZeroField (encRC op r1 cc) = 0#5 := by
  apply BitVec.eq_of_getLsbD_eq
  intro i hi
  simp only [rcZeroField, encRC, BitVec.getLsbD_append, BitVec.getLsbD_extractLsb']
  interval_cases i <;> simp

@[simp] theorem ccField_encRC (op : BitVec 5) (r1 : Reg) (cc : BitVec 2) : ccField (encRC op r1 cc) = cc := by
  apply BitVec.eq_of_getLsbD_eq
  intro i hi
  simp only [ccField, encRC, BitVec.getLsbD_append, BitVec.getLsbD_extractLsb']
  interval_cases i <;> simp

@[simp] theorem opField_encV6 (op : BitVec 5) (v : BitVec 6) : opField (encV6 op v) = op := by
  apply BitVec.eq_of_getLsbD_eq
  intro i hi
  simp only [opField, encV6, BitVec.getLsbD_append, BitVec.getLsbD_extractLsb']
  interval_cases i <;> simp

@[simp] theorem vect6Field_encV6 (op : BitVec 5) (v : BitVec 6) : vect6Field (encV6 op v) = v := by
  apply BitVec.eq_of_getLsbD_eq
  intro i hi
  simp only [vect6Field, encV6, BitVec.getLsbD_append, BitVec.getLsbD_extractLsb']
  interval_cases i <;> simp

@[simp] theorem trapZeroField_encV6 (op : BitVec 5) (v : BitVec 6) : trapZeroField (encV6 op v) = 0#5 := by
  apply BitVec.eq_of_getLsbD_eq
  intro i hi
  simp only [trapZeroField, encV6, BitVec.getLsbD_append, BitVec.getLsbD_extractLsb']
  interval_cases i <;> simp

@[simp] theorem opField_encP6 (op : BitVec 5) (r1 : Reg) (p : Nat) (f : BitVec 1) : opField (encP6 op r1 p f) = op := by
  apply BitVec.eq_of_getLsbD_eq
  intro i hi
  simp only [opField, encP6, BitVec.getLsbD_append, BitVec.getLsbD_extractLsb']
  interval_cases i <;> simp

@[simp] theorem r1Field_encP6 (op : BitVec 5) (r1 : Reg) (p : Nat) (f : BitVec 1) : r1Field (encP6 op r1 p f) = fieldOfReg r1 := by
  apply BitVec.eq_of_getLsbD_eq
  intro i hi
  simp only [r1Field, encP6, BitVec.getLsbD_append, BitVec.getLsbD_extractLsb']
  interval_cases i <;> simp

@[simp] theorem port6Field_encP6 (op : BitVec 5) (r1 : Reg) (p : Nat) (f : BitVec 1) : port6Field (encP6 op r1 p f) = BitVec.ofNat 6 p := by
  apply BitVec.eq_of_getLsbD_eq
  intro i hi
  simp only [port6Field, encP6, BitVec.getLsbD_append, BitVec.getLsbD_extractLsb']
  interval_cases i <;> simp

@[simp] theorem dirField_encP6 (op : BitVec 5) (r1 : Reg) (p : Nat) (f : BitVec 1) : dirField (encP6 op r1 p f) = f := by
  apply BitVec.eq_of_getLsbD_eq
  intro i hi
  simp only [dirField, encP6, BitVec.getLsbD_append, BitVec.getLsbD_extractLsb']
  interval_cases i
  simp

@[simp] theorem opField_encQ8 (op : BitVec 5) (v : Byte) (f : BitVec 3) : opField (encQ8 op v f) = op := by
  apply BitVec.eq_of_getLsbD_eq
  intro i hi
  simp only [opField, encQ8, BitVec.getLsbD_append, BitVec.getLsbD_extractLsb']
  interval_cases i <;> simp

@[simp] theorem irq8Field_encQ8 (op : BitVec 5) (v : Byte) (f : BitVec 3) : irq8Field (encQ8 op v f) = v := by
  apply BitVec.eq_of_getLsbD_eq
  intro i hi
  simp only [irq8Field, encQ8, BitVec.getLsbD_append, BitVec.getLsbD_extractLsb']
  interval_cases i <;> simp

@[simp] theorem modeField_encQ8 (op : BitVec 5) (v : Byte) (f : BitVec 3) : modeField (encQ8 op v f) = f := by
  apply BitVec.eq_of_getLsbD_eq
  intro i hi
  simp only [modeField, encQ8, BitVec.getLsbD_append, BitVec.getLsbD_extractLsb']
  interval_cases i <;> simp

end Sys2Proof
end

