-- ==== Sys2Proof/Laws/Memory.lean ====
section
/-! SUPPORT. Memory: a read after a write, and the canonical form kept by every write. -/

namespace Sys2Proof.Machine

theorem Memory.lookup_writeAt (m : Memory) (a k : Nat) (b : Byte) :
    (m.writeAt a b).lookup k = if k = a then some b else m.lookup k := by
  induction m with
  | nil => simp [Memory.writeAt, Memory.lookup]
  | cons c rest ih =>
    obtain ⟨x, y⟩ := c
    simp only [Memory.writeAt]
    split
    · simp [Memory.lookup]
    · split
      · subst_vars; simp only [Memory.lookup]; split <;> simp_all
      · simp only [Memory.lookup, ih]; split
        · subst_vars; rw [if_neg (by omega)]
        · rfl

/-- A read after a write: the byte written there, every other byte as before (R66). -/
theorem Memory.readAt_writeAt (m : Memory) (a k : Nat) (b : Byte) :
    (m.writeAt a b).readAt k = if k = a then b else m.readAt k := by
  simp only [Memory.readAt, Memory.lookup_writeAt]; split <;> simp

theorem Memory.mem_writeAt {m : Memory} {a : Nat} {b : Byte} {c : Host.Cell} (h : c ∈ m.writeAt a b) :
    c = (a, b) ∨ c ∈ m := by
  induction m with
  | nil => simpa [Memory.writeAt] using h
  | cons d rest ih =>
    obtain ⟨x, y⟩ := d
    simp only [Memory.writeAt] at h
    split at h
    · simpa using h
    · split at h
      · rcases List.mem_cons.mp h with h | h <;> simp [h]
      · rcases List.mem_cons.mp h with h | h
        · simp [h]
        · rcases ih h with h | h <;> simp [h]

/-- Every write at an address below 65536 keeps the canonical form. -/
theorem Memory.writeAt_wf {m : Memory} {a : Nat} (b : Byte) (ha : a < 65536) (h : m.wf) : (m.writeAt a b).wf := by
  refine ⟨?_, fun c hc => ?_⟩
  · have hp := h.1
    clear h
    induction m with
    | nil => simp [Memory.writeAt]
    | cons d rest ih =>
      obtain ⟨x, y⟩ := d
      rw [List.pairwise_cons] at hp
      simp only [Memory.writeAt]
      split
      · rename_i hlt
        refine List.pairwise_cons.mpr ⟨fun c hc => ?_, List.pairwise_cons.mpr hp⟩
        rcases List.mem_cons.mp hc with rfl | hc
        · exact hlt
        · exact Nat.lt_trans hlt (hp.1 c hc)
      · split
        · subst_vars; exact List.pairwise_cons.mpr hp
        · refine List.pairwise_cons.mpr ⟨fun c hc => ?_, ih hp.2⟩
          rcases Memory.mem_writeAt hc with rfl | hc
          · simp only; omega
          · exact hp.1 c hc
  · rcases Memory.mem_writeAt hc with rfl | hc
    · exact ha
    · exact h.2 c hc

theorem Memory.lookup_eq_none_of_lt {m : Memory} {a : Nat} (h : ∀ c ∈ m, a < c.1) : m.lookup a = none := by
  induction m with
  | nil => rfl
  | cons c rest ih =>
    have hc := h c (by simp)
    simp only [Memory.lookup]
    rw [if_neg (by omega)]
    exact ih fun d hd => h d (by simp [hd])

/-- Memories in canonical form that list the same bytes are the same data. -/
theorem Memory.eq_of_lookup : ∀ {m n : Memory}, m.wf → n.wf → (∀ a, m.lookup a = n.lookup a) → m = n
  | [], [], _, _, _ => rfl
  | [], (k, b) :: _, _, _, h => by have := h k; simp [Memory.lookup] at this
  | (k, b) :: _, [], _, _, h => by have := h k; simp [Memory.lookup] at this
  | (k, b) :: m, (l, c) :: n, hm, hn, h => by
    have hm' := List.pairwise_cons.mp hm.1
    have hn' := List.pairwise_cons.mp hn.1
    have hkl : k = l := by
      rcases Nat.lt_trichotomy k l with hlt | heq | hlt
      · have e := h k
        rw [Memory.lookup_eq_none_of_lt (m := (l, c) :: n) (by
          intro d hd
          rcases List.mem_cons.mp hd with rfl | hd
          · exact hlt
          · exact Nat.lt_trans hlt (hn'.1 d hd))] at e
        simp [Memory.lookup] at e
      · exact heq
      · have e := h l
        rw [Memory.lookup_eq_none_of_lt (m := (k, b) :: m) (by
          intro d hd
          rcases List.mem_cons.mp hd with rfl | hd
          · exact hlt
          · exact Nat.lt_trans hlt (hm'.1 d hd))] at e
        simp [Memory.lookup] at e
    subst hkl
    have hbc : b = c := by simpa [Memory.lookup] using h k
    subst hbc
    have hrest : m = n := Memory.eq_of_lookup ⟨hm'.2, fun d hd => hm.2 d (by simp [hd])⟩
      ⟨hn'.2, fun d hd => hn.2 d (by simp [hd])⟩ fun a => by
        by_cases ha : a = k
        · subst ha
          rw [Memory.lookup_eq_none_of_lt hm'.1, Memory.lookup_eq_none_of_lt hn'.1]
        · simpa [Memory.lookup, ha] using h a
    rw [hrest]

theorem Memory.wf_nil : Memory.wf [] := ⟨List.Pairwise.nil, by simp⟩

end Sys2Proof.Machine
end

