-- ==== Sys2Proof/Laws/State.lean ====
section
/-! SUPPORT. One lemma for each field under each primitive update of the state, and for each accessor an update leaves
alone, all true by unfolding; so no later proof unfolds a record update. -/

namespace Sys2Proof.Machine

@[simp] theorem State.setReg_regs (s : State) (d : Reg) (v : Word) : (s.setReg d v).regs = s.regs.set d.val v := rfl
@[simp] theorem State.setReg_pc (s : State) (d : Reg) (v : Word) : (s.setReg d v).pc = s.pc := rfl
@[simp] theorem State.setReg_ir (s : State) (d : Reg) (v : Word) : (s.setReg d v).ir = s.ir := rfl
@[simp] theorem State.setReg_sw (s : State) (d : Reg) (v : Word) : (s.setReg d v).sw = s.sw := rfl
@[simp] theorem State.setReg_osb (s : State) (d : Reg) (v : Word) : (s.setReg d v).osb = s.osb := rfl
@[simp] theorem State.setReg_txb (s : State) (d : Reg) (v : Word) : (s.setReg d v).txb = s.txb := rfl
@[simp] theorem State.setReg_rb (s : State) (d : Reg) (v : Word) : (s.setReg d v).rb = s.rb := rfl
@[simp] theorem State.setReg_aluA (s : State) (d : Reg) (v : Word) : (s.setReg d v).aluA = s.aluA := rfl
@[simp] theorem State.setReg_aluB (s : State) (d : Reg) (v : Word) : (s.setReg d v).aluB = s.aluB := rfl
@[simp] theorem State.setReg_aluR (s : State) (d : Reg) (v : Word) : (s.setReg d v).aluR = s.aluR := rfl
@[simp] theorem State.setReg_mem (s : State) (d : Reg) (v : Word) : (s.setReg d v).mem = s.mem := rfl
@[simp] theorem State.setReg_irqLines (s : State) (d : Reg) (v : Word) : (s.setReg d v).irqLines = s.irqLines := rfl
@[simp] theorem State.setReg_events (s : State) (d : Reg) (v : Word) : (s.setReg d v).events = s.events := rfl
@[simp] theorem State.setReg_boundary (s : State) (d : Reg) (v : Word) : (s.setReg d v).boundary = s.boundary := rfl
@[simp] theorem State.setReg_irqFeed (s : State) (d : Reg) (v : Word) : (s.setReg d v).irqFeed = s.irqFeed := rfl
@[simp] theorem State.setReg_portFeed (s : State) (d : Reg) (v : Word) : (s.setReg d v).portFeed = s.portFeed := rfl
@[simp] theorem State.setReg_osbLoaded (s : State) (d : Reg) (v : Word) : (s.setReg d v).osbLoaded = s.osbLoaded := rfl
@[simp] theorem State.setReg_txbLoaded (s : State) (d : Reg) (v : Word) : (s.setReg d v).txbLoaded = s.txbLoaded := rfl
@[simp] theorem State.setReg_readByte (s : State) (d : Reg) (v : Word) (a : Word) : (s.setReg d v).readByte a = s.readByte a := rfl
@[simp] theorem State.setReg_readWord (s : State) (d : Reg) (v : Word) (a : Word) : (s.setReg d v).readWord a = s.readWord a := rfl
@[simp] theorem State.setReg_cond (s : State) (d : Reg) (v : Word) (cc : Cond) : (s.setReg d v).cond cc = s.cond cc := by cases cc <;> rfl
@[simp] theorem State.setReg_flags (s : State) (d : Reg) (v : Word) : (s.setReg d v).flags = s.flags := rfl
@[simp] theorem State.setReg_swValue (s : State) (d : Reg) (v : Word) : (s.setReg d v).swValue = s.swValue := rfl
@[simp] theorem State.setReg_irqEnables (s : State) (d : Reg) (v : Word) : (s.setReg d v).irqEnables = s.irqEnables := rfl

@[simp] theorem State.setPc_regs (s : State) (t : Word) : (s.setPc t).regs = s.regs := rfl
@[simp] theorem State.setPc_pc (s : State) (t : Word) : (s.setPc t).pc = t := rfl
@[simp] theorem State.setPc_ir (s : State) (t : Word) : (s.setPc t).ir = s.ir := rfl
@[simp] theorem State.setPc_sw (s : State) (t : Word) : (s.setPc t).sw = s.sw := rfl
@[simp] theorem State.setPc_osb (s : State) (t : Word) : (s.setPc t).osb = s.osb := rfl
@[simp] theorem State.setPc_txb (s : State) (t : Word) : (s.setPc t).txb = s.txb := rfl
@[simp] theorem State.setPc_rb (s : State) (t : Word) : (s.setPc t).rb = s.rb := rfl
@[simp] theorem State.setPc_aluA (s : State) (t : Word) : (s.setPc t).aluA = s.aluA := rfl
@[simp] theorem State.setPc_aluB (s : State) (t : Word) : (s.setPc t).aluB = s.aluB := rfl
@[simp] theorem State.setPc_aluR (s : State) (t : Word) : (s.setPc t).aluR = s.aluR := rfl
@[simp] theorem State.setPc_mem (s : State) (t : Word) : (s.setPc t).mem = s.mem := rfl
@[simp] theorem State.setPc_irqLines (s : State) (t : Word) : (s.setPc t).irqLines = s.irqLines := rfl
@[simp] theorem State.setPc_events (s : State) (t : Word) : (s.setPc t).events = s.events := rfl
@[simp] theorem State.setPc_boundary (s : State) (t : Word) : (s.setPc t).boundary = s.boundary := rfl
@[simp] theorem State.setPc_irqFeed (s : State) (t : Word) : (s.setPc t).irqFeed = s.irqFeed := rfl
@[simp] theorem State.setPc_portFeed (s : State) (t : Word) : (s.setPc t).portFeed = s.portFeed := rfl
@[simp] theorem State.setPc_osbLoaded (s : State) (t : Word) : (s.setPc t).osbLoaded = s.osbLoaded := rfl
@[simp] theorem State.setPc_txbLoaded (s : State) (t : Word) : (s.setPc t).txbLoaded = s.txbLoaded := rfl
@[simp] theorem State.setPc_reg (s : State) (t : Word) (r : Reg) : (s.setPc t).reg r = s.reg r := rfl
@[simp] theorem State.setPc_readByte (s : State) (t : Word) (a : Word) : (s.setPc t).readByte a = s.readByte a := rfl
@[simp] theorem State.setPc_readWord (s : State) (t : Word) (a : Word) : (s.setPc t).readWord a = s.readWord a := rfl
@[simp] theorem State.setPc_cond (s : State) (t : Word) (cc : Cond) : (s.setPc t).cond cc = s.cond cc := by cases cc <;> rfl
@[simp] theorem State.setPc_flags (s : State) (t : Word) : (s.setPc t).flags = s.flags := rfl
@[simp] theorem State.setPc_swValue (s : State) (t : Word) : (s.setPc t).swValue = s.swValue := rfl
@[simp] theorem State.setPc_irqEnables (s : State) (t : Word) : (s.setPc t).irqEnables = s.irqEnables := rfl

@[simp] theorem State.setSw_regs (s : State) (v : Word) : (s.setSw v).regs = s.regs := rfl
@[simp] theorem State.setSw_pc (s : State) (v : Word) : (s.setSw v).pc = s.pc := rfl
@[simp] theorem State.setSw_ir (s : State) (v : Word) : (s.setSw v).ir = s.ir := rfl
@[simp] theorem State.setSw_sw (s : State) (v : Word) : (s.setSw v).sw = v &&& 0xF0FF#16 := rfl
@[simp] theorem State.setSw_osb (s : State) (v : Word) : (s.setSw v).osb = s.osb := rfl
@[simp] theorem State.setSw_txb (s : State) (v : Word) : (s.setSw v).txb = s.txb := rfl
@[simp] theorem State.setSw_rb (s : State) (v : Word) : (s.setSw v).rb = s.rb := rfl
@[simp] theorem State.setSw_aluA (s : State) (v : Word) : (s.setSw v).aluA = s.aluA := rfl
@[simp] theorem State.setSw_aluB (s : State) (v : Word) : (s.setSw v).aluB = s.aluB := rfl
@[simp] theorem State.setSw_aluR (s : State) (v : Word) : (s.setSw v).aluR = s.aluR := rfl
@[simp] theorem State.setSw_mem (s : State) (v : Word) : (s.setSw v).mem = s.mem := rfl
@[simp] theorem State.setSw_irqLines (s : State) (v : Word) : (s.setSw v).irqLines = s.irqLines := rfl
@[simp] theorem State.setSw_events (s : State) (v : Word) : (s.setSw v).events = s.events := rfl
@[simp] theorem State.setSw_boundary (s : State) (v : Word) : (s.setSw v).boundary = s.boundary := rfl
@[simp] theorem State.setSw_irqFeed (s : State) (v : Word) : (s.setSw v).irqFeed = s.irqFeed := rfl
@[simp] theorem State.setSw_portFeed (s : State) (v : Word) : (s.setSw v).portFeed = s.portFeed := rfl
@[simp] theorem State.setSw_osbLoaded (s : State) (v : Word) : (s.setSw v).osbLoaded = s.osbLoaded := rfl
@[simp] theorem State.setSw_txbLoaded (s : State) (v : Word) : (s.setSw v).txbLoaded = s.txbLoaded := rfl
@[simp] theorem State.setSw_reg (s : State) (v : Word) (r : Reg) : (s.setSw v).reg r = s.reg r := rfl
@[simp] theorem State.setSw_readByte (s : State) (v : Word) (a : Word) : (s.setSw v).readByte a = s.readByte a := rfl
@[simp] theorem State.setSw_readWord (s : State) (v : Word) (a : Word) : (s.setSw v).readWord a = s.readWord a := rfl

@[simp] theorem State.setIrqEnables_regs (s : State) (m : BitVec 8) : (s.setIrqEnables m).regs = s.regs := rfl
@[simp] theorem State.setIrqEnables_pc (s : State) (m : BitVec 8) : (s.setIrqEnables m).pc = s.pc := rfl
@[simp] theorem State.setIrqEnables_ir (s : State) (m : BitVec 8) : (s.setIrqEnables m).ir = s.ir := rfl
@[simp] theorem State.setIrqEnables_sw (s : State) (m : BitVec 8) : (s.setIrqEnables m).sw = s.sw.extractLsb' 8 8 ++ m := rfl
@[simp] theorem State.setIrqEnables_osb (s : State) (m : BitVec 8) : (s.setIrqEnables m).osb = s.osb := rfl
@[simp] theorem State.setIrqEnables_txb (s : State) (m : BitVec 8) : (s.setIrqEnables m).txb = s.txb := rfl
@[simp] theorem State.setIrqEnables_rb (s : State) (m : BitVec 8) : (s.setIrqEnables m).rb = s.rb := rfl
@[simp] theorem State.setIrqEnables_aluA (s : State) (m : BitVec 8) : (s.setIrqEnables m).aluA = s.aluA := rfl
@[simp] theorem State.setIrqEnables_aluB (s : State) (m : BitVec 8) : (s.setIrqEnables m).aluB = s.aluB := rfl
@[simp] theorem State.setIrqEnables_aluR (s : State) (m : BitVec 8) : (s.setIrqEnables m).aluR = s.aluR := rfl
@[simp] theorem State.setIrqEnables_mem (s : State) (m : BitVec 8) : (s.setIrqEnables m).mem = s.mem := rfl
@[simp] theorem State.setIrqEnables_irqLines (s : State) (m : BitVec 8) : (s.setIrqEnables m).irqLines = s.irqLines := rfl
@[simp] theorem State.setIrqEnables_events (s : State) (m : BitVec 8) : (s.setIrqEnables m).events = s.events := rfl
@[simp] theorem State.setIrqEnables_boundary (s : State) (m : BitVec 8) : (s.setIrqEnables m).boundary = s.boundary := rfl
@[simp] theorem State.setIrqEnables_irqFeed (s : State) (m : BitVec 8) : (s.setIrqEnables m).irqFeed = s.irqFeed := rfl
@[simp] theorem State.setIrqEnables_portFeed (s : State) (m : BitVec 8) : (s.setIrqEnables m).portFeed = s.portFeed := rfl
@[simp] theorem State.setIrqEnables_osbLoaded (s : State) (m : BitVec 8) : (s.setIrqEnables m).osbLoaded = s.osbLoaded := rfl
@[simp] theorem State.setIrqEnables_txbLoaded (s : State) (m : BitVec 8) : (s.setIrqEnables m).txbLoaded = s.txbLoaded := rfl
@[simp] theorem State.setIrqEnables_reg (s : State) (m : BitVec 8) (r : Reg) : (s.setIrqEnables m).reg r = s.reg r := rfl
@[simp] theorem State.setIrqEnables_readByte (s : State) (m : BitVec 8) (a : Word) : (s.setIrqEnables m).readByte a = s.readByte a := rfl
@[simp] theorem State.setIrqEnables_readWord (s : State) (m : BitVec 8) (a : Word) : (s.setIrqEnables m).readWord a = s.readWord a := rfl

@[simp] theorem State.setFlags_regs (s : State) (f : Flags) : (s.setFlags f).regs = s.regs := rfl
@[simp] theorem State.setFlags_pc (s : State) (f : Flags) : (s.setFlags f).pc = s.pc := rfl
@[simp] theorem State.setFlags_ir (s : State) (f : Flags) : (s.setFlags f).ir = s.ir := rfl
@[simp] theorem State.setFlags_sw (s : State) (f : Flags) : (s.setFlags f).sw = BitVec.ofBool f.n ++ BitVec.ofBool f.z ++ BitVec.ofBool f.c ++ BitVec.ofBool f.o ++ s.sw.extractLsb' 0 12 := rfl
@[simp] theorem State.setFlags_osb (s : State) (f : Flags) : (s.setFlags f).osb = s.osb := rfl
@[simp] theorem State.setFlags_txb (s : State) (f : Flags) : (s.setFlags f).txb = s.txb := rfl
@[simp] theorem State.setFlags_rb (s : State) (f : Flags) : (s.setFlags f).rb = s.rb := rfl
@[simp] theorem State.setFlags_aluA (s : State) (f : Flags) : (s.setFlags f).aluA = s.aluA := rfl
@[simp] theorem State.setFlags_aluB (s : State) (f : Flags) : (s.setFlags f).aluB = s.aluB := rfl
@[simp] theorem State.setFlags_aluR (s : State) (f : Flags) : (s.setFlags f).aluR = s.aluR := rfl
@[simp] theorem State.setFlags_mem (s : State) (f : Flags) : (s.setFlags f).mem = s.mem := rfl
@[simp] theorem State.setFlags_irqLines (s : State) (f : Flags) : (s.setFlags f).irqLines = s.irqLines := rfl
@[simp] theorem State.setFlags_events (s : State) (f : Flags) : (s.setFlags f).events = s.events := rfl
@[simp] theorem State.setFlags_boundary (s : State) (f : Flags) : (s.setFlags f).boundary = s.boundary := rfl
@[simp] theorem State.setFlags_irqFeed (s : State) (f : Flags) : (s.setFlags f).irqFeed = s.irqFeed := rfl
@[simp] theorem State.setFlags_portFeed (s : State) (f : Flags) : (s.setFlags f).portFeed = s.portFeed := rfl
@[simp] theorem State.setFlags_osbLoaded (s : State) (f : Flags) : (s.setFlags f).osbLoaded = s.osbLoaded := rfl
@[simp] theorem State.setFlags_txbLoaded (s : State) (f : Flags) : (s.setFlags f).txbLoaded = s.txbLoaded := rfl
@[simp] theorem State.setFlags_reg (s : State) (f : Flags) (r : Reg) : (s.setFlags f).reg r = s.reg r := rfl
@[simp] theorem State.setFlags_readByte (s : State) (f : Flags) (a : Word) : (s.setFlags f).readByte a = s.readByte a := rfl
@[simp] theorem State.setFlags_readWord (s : State) (f : Flags) (a : Word) : (s.setFlags f).readWord a = s.readWord a := rfl

@[simp] theorem State.loadOsb_regs (s : State) (v : Word) : (s.loadOsb v).regs = s.regs := rfl
@[simp] theorem State.loadOsb_pc (s : State) (v : Word) : (s.loadOsb v).pc = s.pc := rfl
@[simp] theorem State.loadOsb_ir (s : State) (v : Word) : (s.loadOsb v).ir = s.ir := rfl
@[simp] theorem State.loadOsb_sw (s : State) (v : Word) : (s.loadOsb v).sw = s.sw := rfl
@[simp] theorem State.loadOsb_osb (s : State) (v : Word) : (s.loadOsb v).osb = v := rfl
@[simp] theorem State.loadOsb_txb (s : State) (v : Word) : (s.loadOsb v).txb = s.txb := rfl
@[simp] theorem State.loadOsb_rb (s : State) (v : Word) : (s.loadOsb v).rb = s.rb := rfl
@[simp] theorem State.loadOsb_aluA (s : State) (v : Word) : (s.loadOsb v).aluA = s.aluA := rfl
@[simp] theorem State.loadOsb_aluB (s : State) (v : Word) : (s.loadOsb v).aluB = s.aluB := rfl
@[simp] theorem State.loadOsb_aluR (s : State) (v : Word) : (s.loadOsb v).aluR = s.aluR := rfl
@[simp] theorem State.loadOsb_mem (s : State) (v : Word) : (s.loadOsb v).mem = s.mem := rfl
@[simp] theorem State.loadOsb_irqLines (s : State) (v : Word) : (s.loadOsb v).irqLines = s.irqLines := rfl
@[simp] theorem State.loadOsb_events (s : State) (v : Word) : (s.loadOsb v).events = s.events := rfl
@[simp] theorem State.loadOsb_boundary (s : State) (v : Word) : (s.loadOsb v).boundary = s.boundary := rfl
@[simp] theorem State.loadOsb_irqFeed (s : State) (v : Word) : (s.loadOsb v).irqFeed = s.irqFeed := rfl
@[simp] theorem State.loadOsb_portFeed (s : State) (v : Word) : (s.loadOsb v).portFeed = s.portFeed := rfl
@[simp] theorem State.loadOsb_osbLoaded (s : State) (v : Word) : (s.loadOsb v).osbLoaded = true := rfl
@[simp] theorem State.loadOsb_txbLoaded (s : State) (v : Word) : (s.loadOsb v).txbLoaded = s.txbLoaded := rfl
@[simp] theorem State.loadOsb_reg (s : State) (v : Word) (r : Reg) : (s.loadOsb v).reg r = s.reg r := rfl
@[simp] theorem State.loadOsb_readByte (s : State) (v : Word) (a : Word) : (s.loadOsb v).readByte a = s.readByte a := rfl
@[simp] theorem State.loadOsb_readWord (s : State) (v : Word) (a : Word) : (s.loadOsb v).readWord a = s.readWord a := rfl
@[simp] theorem State.loadOsb_cond (s : State) (v : Word) (cc : Cond) : (s.loadOsb v).cond cc = s.cond cc := by cases cc <;> rfl
@[simp] theorem State.loadOsb_flags (s : State) (v : Word) : (s.loadOsb v).flags = s.flags := rfl
@[simp] theorem State.loadOsb_swValue (s : State) (v : Word) : (s.loadOsb v).swValue = s.swValue := rfl
@[simp] theorem State.loadOsb_irqEnables (s : State) (v : Word) : (s.loadOsb v).irqEnables = s.irqEnables := rfl

@[simp] theorem State.loadTxb_regs (s : State) (v : Word) : (s.loadTxb v).regs = s.regs := rfl
@[simp] theorem State.loadTxb_pc (s : State) (v : Word) : (s.loadTxb v).pc = s.pc := rfl
@[simp] theorem State.loadTxb_ir (s : State) (v : Word) : (s.loadTxb v).ir = s.ir := rfl
@[simp] theorem State.loadTxb_sw (s : State) (v : Word) : (s.loadTxb v).sw = s.sw := rfl
@[simp] theorem State.loadTxb_osb (s : State) (v : Word) : (s.loadTxb v).osb = s.osb := rfl
@[simp] theorem State.loadTxb_txb (s : State) (v : Word) : (s.loadTxb v).txb = v := rfl
@[simp] theorem State.loadTxb_rb (s : State) (v : Word) : (s.loadTxb v).rb = s.rb := rfl
@[simp] theorem State.loadTxb_aluA (s : State) (v : Word) : (s.loadTxb v).aluA = s.aluA := rfl
@[simp] theorem State.loadTxb_aluB (s : State) (v : Word) : (s.loadTxb v).aluB = s.aluB := rfl
@[simp] theorem State.loadTxb_aluR (s : State) (v : Word) : (s.loadTxb v).aluR = s.aluR := rfl
@[simp] theorem State.loadTxb_mem (s : State) (v : Word) : (s.loadTxb v).mem = s.mem := rfl
@[simp] theorem State.loadTxb_irqLines (s : State) (v : Word) : (s.loadTxb v).irqLines = s.irqLines := rfl
@[simp] theorem State.loadTxb_events (s : State) (v : Word) : (s.loadTxb v).events = s.events := rfl
@[simp] theorem State.loadTxb_boundary (s : State) (v : Word) : (s.loadTxb v).boundary = s.boundary := rfl
@[simp] theorem State.loadTxb_irqFeed (s : State) (v : Word) : (s.loadTxb v).irqFeed = s.irqFeed := rfl
@[simp] theorem State.loadTxb_portFeed (s : State) (v : Word) : (s.loadTxb v).portFeed = s.portFeed := rfl
@[simp] theorem State.loadTxb_osbLoaded (s : State) (v : Word) : (s.loadTxb v).osbLoaded = s.osbLoaded := rfl
@[simp] theorem State.loadTxb_txbLoaded (s : State) (v : Word) : (s.loadTxb v).txbLoaded = true := rfl
@[simp] theorem State.loadTxb_reg (s : State) (v : Word) (r : Reg) : (s.loadTxb v).reg r = s.reg r := rfl
@[simp] theorem State.loadTxb_readByte (s : State) (v : Word) (a : Word) : (s.loadTxb v).readByte a = s.readByte a := rfl
@[simp] theorem State.loadTxb_readWord (s : State) (v : Word) (a : Word) : (s.loadTxb v).readWord a = s.readWord a := rfl
@[simp] theorem State.loadTxb_cond (s : State) (v : Word) (cc : Cond) : (s.loadTxb v).cond cc = s.cond cc := by cases cc <;> rfl
@[simp] theorem State.loadTxb_flags (s : State) (v : Word) : (s.loadTxb v).flags = s.flags := rfl
@[simp] theorem State.loadTxb_swValue (s : State) (v : Word) : (s.loadTxb v).swValue = s.swValue := rfl
@[simp] theorem State.loadTxb_irqEnables (s : State) (v : Word) : (s.loadTxb v).irqEnables = s.irqEnables := rfl

@[simp] theorem State.stopClock_regs (s : State) : (s.stopClock).regs = s.regs := rfl
@[simp] theorem State.stopClock_pc (s : State) : (s.stopClock).pc = s.pc := rfl
@[simp] theorem State.stopClock_ir (s : State) : (s.stopClock).ir = s.ir := rfl
@[simp] theorem State.stopClock_sw (s : State) : (s.stopClock).sw = s.sw := rfl
@[simp] theorem State.stopClock_osb (s : State) : (s.stopClock).osb = s.osb := rfl
@[simp] theorem State.stopClock_txb (s : State) : (s.stopClock).txb = s.txb := rfl
@[simp] theorem State.stopClock_rb (s : State) : (s.stopClock).rb = false := rfl
@[simp] theorem State.stopClock_aluA (s : State) : (s.stopClock).aluA = s.aluA := rfl
@[simp] theorem State.stopClock_aluB (s : State) : (s.stopClock).aluB = s.aluB := rfl
@[simp] theorem State.stopClock_aluR (s : State) : (s.stopClock).aluR = s.aluR := rfl
@[simp] theorem State.stopClock_mem (s : State) : (s.stopClock).mem = s.mem := rfl
@[simp] theorem State.stopClock_irqLines (s : State) : (s.stopClock).irqLines = s.irqLines := rfl
@[simp] theorem State.stopClock_events (s : State) : (s.stopClock).events = s.events := rfl
@[simp] theorem State.stopClock_boundary (s : State) : (s.stopClock).boundary = s.boundary := rfl
@[simp] theorem State.stopClock_irqFeed (s : State) : (s.stopClock).irqFeed = s.irqFeed := rfl
@[simp] theorem State.stopClock_portFeed (s : State) : (s.stopClock).portFeed = s.portFeed := rfl
@[simp] theorem State.stopClock_osbLoaded (s : State) : (s.stopClock).osbLoaded = s.osbLoaded := rfl
@[simp] theorem State.stopClock_txbLoaded (s : State) : (s.stopClock).txbLoaded = s.txbLoaded := rfl
@[simp] theorem State.stopClock_reg (s : State) (r : Reg) : (s.stopClock).reg r = s.reg r := rfl
@[simp] theorem State.stopClock_readByte (s : State) (a : Word) : (s.stopClock).readByte a = s.readByte a := rfl
@[simp] theorem State.stopClock_readWord (s : State) (a : Word) : (s.stopClock).readWord a = s.readWord a := rfl
@[simp] theorem State.stopClock_cond (s : State) (cc : Cond) : (s.stopClock).cond cc = s.cond cc := by cases cc <;> rfl
@[simp] theorem State.stopClock_flags (s : State) : (s.stopClock).flags = s.flags := rfl
@[simp] theorem State.stopClock_swValue (s : State) : (s.stopClock).swValue = s.swValue := rfl
@[simp] theorem State.stopClock_irqEnables (s : State) : (s.stopClock).irqEnables = s.irqEnables := rfl

@[simp] theorem State.latchAlu_regs (s : State) (x y : Word) (z : BitVec 32) : (s.latchAlu x y z).regs = s.regs := rfl
@[simp] theorem State.latchAlu_pc (s : State) (x y : Word) (z : BitVec 32) : (s.latchAlu x y z).pc = s.pc := rfl
@[simp] theorem State.latchAlu_ir (s : State) (x y : Word) (z : BitVec 32) : (s.latchAlu x y z).ir = s.ir := rfl
@[simp] theorem State.latchAlu_sw (s : State) (x y : Word) (z : BitVec 32) : (s.latchAlu x y z).sw = s.sw := rfl
@[simp] theorem State.latchAlu_osb (s : State) (x y : Word) (z : BitVec 32) : (s.latchAlu x y z).osb = s.osb := rfl
@[simp] theorem State.latchAlu_txb (s : State) (x y : Word) (z : BitVec 32) : (s.latchAlu x y z).txb = s.txb := rfl
@[simp] theorem State.latchAlu_rb (s : State) (x y : Word) (z : BitVec 32) : (s.latchAlu x y z).rb = s.rb := rfl
@[simp] theorem State.latchAlu_aluA (s : State) (x y : Word) (z : BitVec 32) : (s.latchAlu x y z).aluA = x := rfl
@[simp] theorem State.latchAlu_aluB (s : State) (x y : Word) (z : BitVec 32) : (s.latchAlu x y z).aluB = y := rfl
@[simp] theorem State.latchAlu_aluR (s : State) (x y : Word) (z : BitVec 32) : (s.latchAlu x y z).aluR = z := rfl
@[simp] theorem State.latchAlu_mem (s : State) (x y : Word) (z : BitVec 32) : (s.latchAlu x y z).mem = s.mem := rfl
@[simp] theorem State.latchAlu_irqLines (s : State) (x y : Word) (z : BitVec 32) : (s.latchAlu x y z).irqLines = s.irqLines := rfl
@[simp] theorem State.latchAlu_events (s : State) (x y : Word) (z : BitVec 32) : (s.latchAlu x y z).events = s.events := rfl
@[simp] theorem State.latchAlu_boundary (s : State) (x y : Word) (z : BitVec 32) : (s.latchAlu x y z).boundary = s.boundary := rfl
@[simp] theorem State.latchAlu_irqFeed (s : State) (x y : Word) (z : BitVec 32) : (s.latchAlu x y z).irqFeed = s.irqFeed := rfl
@[simp] theorem State.latchAlu_portFeed (s : State) (x y : Word) (z : BitVec 32) : (s.latchAlu x y z).portFeed = s.portFeed := rfl
@[simp] theorem State.latchAlu_osbLoaded (s : State) (x y : Word) (z : BitVec 32) : (s.latchAlu x y z).osbLoaded = s.osbLoaded := rfl
@[simp] theorem State.latchAlu_txbLoaded (s : State) (x y : Word) (z : BitVec 32) : (s.latchAlu x y z).txbLoaded = s.txbLoaded := rfl
@[simp] theorem State.latchAlu_reg (s : State) (x y : Word) (z : BitVec 32) (r : Reg) : (s.latchAlu x y z).reg r = s.reg r := rfl
@[simp] theorem State.latchAlu_readByte (s : State) (x y : Word) (z : BitVec 32) (a : Word) : (s.latchAlu x y z).readByte a = s.readByte a := rfl
@[simp] theorem State.latchAlu_readWord (s : State) (x y : Word) (z : BitVec 32) (a : Word) : (s.latchAlu x y z).readWord a = s.readWord a := rfl
@[simp] theorem State.latchAlu_cond (s : State) (x y : Word) (z : BitVec 32) (cc : Cond) : (s.latchAlu x y z).cond cc = s.cond cc := by cases cc <;> rfl
@[simp] theorem State.latchAlu_flags (s : State) (x y : Word) (z : BitVec 32) : (s.latchAlu x y z).flags = s.flags := rfl
@[simp] theorem State.latchAlu_swValue (s : State) (x y : Word) (z : BitVec 32) : (s.latchAlu x y z).swValue = s.swValue := rfl
@[simp] theorem State.latchAlu_irqEnables (s : State) (x y : Word) (z : BitVec 32) : (s.latchAlu x y z).irqEnables = s.irqEnables := rfl

@[simp] theorem State.writeByte_regs (s : State) (k : Word) (b : Byte) : (s.writeByte k b).regs = s.regs := rfl
@[simp] theorem State.writeByte_pc (s : State) (k : Word) (b : Byte) : (s.writeByte k b).pc = s.pc := rfl
@[simp] theorem State.writeByte_ir (s : State) (k : Word) (b : Byte) : (s.writeByte k b).ir = s.ir := rfl
@[simp] theorem State.writeByte_sw (s : State) (k : Word) (b : Byte) : (s.writeByte k b).sw = s.sw := rfl
@[simp] theorem State.writeByte_osb (s : State) (k : Word) (b : Byte) : (s.writeByte k b).osb = s.osb := rfl
@[simp] theorem State.writeByte_txb (s : State) (k : Word) (b : Byte) : (s.writeByte k b).txb = s.txb := rfl
@[simp] theorem State.writeByte_rb (s : State) (k : Word) (b : Byte) : (s.writeByte k b).rb = s.rb := rfl
@[simp] theorem State.writeByte_aluA (s : State) (k : Word) (b : Byte) : (s.writeByte k b).aluA = s.aluA := rfl
@[simp] theorem State.writeByte_aluB (s : State) (k : Word) (b : Byte) : (s.writeByte k b).aluB = s.aluB := rfl
@[simp] theorem State.writeByte_aluR (s : State) (k : Word) (b : Byte) : (s.writeByte k b).aluR = s.aluR := rfl
@[simp] theorem State.writeByte_mem (s : State) (k : Word) (b : Byte) : (s.writeByte k b).mem = s.mem.writeAt k.toNat b := rfl
@[simp] theorem State.writeByte_irqLines (s : State) (k : Word) (b : Byte) : (s.writeByte k b).irqLines = s.irqLines := rfl
@[simp] theorem State.writeByte_events (s : State) (k : Word) (b : Byte) : (s.writeByte k b).events = s.events := rfl
@[simp] theorem State.writeByte_boundary (s : State) (k : Word) (b : Byte) : (s.writeByte k b).boundary = s.boundary := rfl
@[simp] theorem State.writeByte_irqFeed (s : State) (k : Word) (b : Byte) : (s.writeByte k b).irqFeed = s.irqFeed := rfl
@[simp] theorem State.writeByte_portFeed (s : State) (k : Word) (b : Byte) : (s.writeByte k b).portFeed = s.portFeed := rfl
@[simp] theorem State.writeByte_osbLoaded (s : State) (k : Word) (b : Byte) : (s.writeByte k b).osbLoaded = s.osbLoaded := rfl
@[simp] theorem State.writeByte_txbLoaded (s : State) (k : Word) (b : Byte) : (s.writeByte k b).txbLoaded = s.txbLoaded := rfl
@[simp] theorem State.writeByte_reg (s : State) (k : Word) (b : Byte) (r : Reg) : (s.writeByte k b).reg r = s.reg r := rfl
@[simp] theorem State.writeByte_cond (s : State) (k : Word) (b : Byte) (cc : Cond) : (s.writeByte k b).cond cc = s.cond cc := by cases cc <;> rfl
@[simp] theorem State.writeByte_flags (s : State) (k : Word) (b : Byte) : (s.writeByte k b).flags = s.flags := rfl
@[simp] theorem State.writeByte_swValue (s : State) (k : Word) (b : Byte) : (s.writeByte k b).swValue = s.swValue := rfl
@[simp] theorem State.writeByte_irqEnables (s : State) (k : Word) (b : Byte) : (s.writeByte k b).irqEnables = s.irqEnables := rfl

@[simp] theorem State.writePort_regs (s : State) (p : Nat) (b : Byte) : (s.writePort p b).regs = s.regs := rfl
@[simp] theorem State.writePort_pc (s : State) (p : Nat) (b : Byte) : (s.writePort p b).pc = s.pc := rfl
@[simp] theorem State.writePort_ir (s : State) (p : Nat) (b : Byte) : (s.writePort p b).ir = s.ir := rfl
@[simp] theorem State.writePort_sw (s : State) (p : Nat) (b : Byte) : (s.writePort p b).sw = s.sw := rfl
@[simp] theorem State.writePort_osb (s : State) (p : Nat) (b : Byte) : (s.writePort p b).osb = s.osb := rfl
@[simp] theorem State.writePort_txb (s : State) (p : Nat) (b : Byte) : (s.writePort p b).txb = s.txb := rfl
@[simp] theorem State.writePort_rb (s : State) (p : Nat) (b : Byte) : (s.writePort p b).rb = s.rb := rfl
@[simp] theorem State.writePort_aluA (s : State) (p : Nat) (b : Byte) : (s.writePort p b).aluA = s.aluA := rfl
@[simp] theorem State.writePort_aluB (s : State) (p : Nat) (b : Byte) : (s.writePort p b).aluB = s.aluB := rfl
@[simp] theorem State.writePort_aluR (s : State) (p : Nat) (b : Byte) : (s.writePort p b).aluR = s.aluR := rfl
@[simp] theorem State.writePort_mem (s : State) (p : Nat) (b : Byte) : (s.writePort p b).mem = s.mem := rfl
@[simp] theorem State.writePort_irqLines (s : State) (p : Nat) (b : Byte) : (s.writePort p b).irqLines = s.irqLines := rfl
@[simp] theorem State.writePort_events (s : State) (p : Nat) (b : Byte) : (s.writePort p b).events = .write p b :: s.events := rfl
@[simp] theorem State.writePort_boundary (s : State) (p : Nat) (b : Byte) : (s.writePort p b).boundary = s.boundary := rfl
@[simp] theorem State.writePort_irqFeed (s : State) (p : Nat) (b : Byte) : (s.writePort p b).irqFeed = s.irqFeed := rfl
@[simp] theorem State.writePort_portFeed (s : State) (p : Nat) (b : Byte) : (s.writePort p b).portFeed = s.portFeed := rfl
@[simp] theorem State.writePort_osbLoaded (s : State) (p : Nat) (b : Byte) : (s.writePort p b).osbLoaded = s.osbLoaded := rfl
@[simp] theorem State.writePort_txbLoaded (s : State) (p : Nat) (b : Byte) : (s.writePort p b).txbLoaded = s.txbLoaded := rfl
@[simp] theorem State.writePort_reg (s : State) (p : Nat) (b : Byte) (r : Reg) : (s.writePort p b).reg r = s.reg r := rfl
@[simp] theorem State.writePort_readByte (s : State) (p : Nat) (b : Byte) (a : Word) : (s.writePort p b).readByte a = s.readByte a := rfl
@[simp] theorem State.writePort_readWord (s : State) (p : Nat) (b : Byte) (a : Word) : (s.writePort p b).readWord a = s.readWord a := rfl
@[simp] theorem State.writePort_cond (s : State) (p : Nat) (b : Byte) (cc : Cond) : (s.writePort p b).cond cc = s.cond cc := by cases cc <;> rfl
@[simp] theorem State.writePort_flags (s : State) (p : Nat) (b : Byte) : (s.writePort p b).flags = s.flags := rfl
@[simp] theorem State.writePort_swValue (s : State) (p : Nat) (b : Byte) : (s.writePort p b).swValue = s.swValue := rfl
@[simp] theorem State.writePort_irqEnables (s : State) (p : Nat) (b : Byte) : (s.writePort p b).irqEnables = s.irqEnables := rfl

@[simp] theorem State.afterPortRead_regs (s : State) (p : Nat) : (s.afterPortRead p).regs = s.regs := rfl
@[simp] theorem State.afterPortRead_pc (s : State) (p : Nat) : (s.afterPortRead p).pc = s.pc := rfl
@[simp] theorem State.afterPortRead_ir (s : State) (p : Nat) : (s.afterPortRead p).ir = s.ir := rfl
@[simp] theorem State.afterPortRead_sw (s : State) (p : Nat) : (s.afterPortRead p).sw = s.sw := rfl
@[simp] theorem State.afterPortRead_osb (s : State) (p : Nat) : (s.afterPortRead p).osb = s.osb := rfl
@[simp] theorem State.afterPortRead_txb (s : State) (p : Nat) : (s.afterPortRead p).txb = s.txb := rfl
@[simp] theorem State.afterPortRead_rb (s : State) (p : Nat) : (s.afterPortRead p).rb = s.rb := rfl
@[simp] theorem State.afterPortRead_aluA (s : State) (p : Nat) : (s.afterPortRead p).aluA = s.aluA := rfl
@[simp] theorem State.afterPortRead_aluB (s : State) (p : Nat) : (s.afterPortRead p).aluB = s.aluB := rfl
@[simp] theorem State.afterPortRead_aluR (s : State) (p : Nat) : (s.afterPortRead p).aluR = s.aluR := rfl
@[simp] theorem State.afterPortRead_mem (s : State) (p : Nat) : (s.afterPortRead p).mem = s.mem := rfl
@[simp] theorem State.afterPortRead_irqLines (s : State) (p : Nat) : (s.afterPortRead p).irqLines = s.irqLines := rfl
@[simp] theorem State.afterPortRead_events (s : State) (p : Nat) : (s.afterPortRead p).events = .read p (s.portAnswer p) :: s.events := rfl
@[simp] theorem State.afterPortRead_boundary (s : State) (p : Nat) : (s.afterPortRead p).boundary = s.boundary := rfl
@[simp] theorem State.afterPortRead_irqFeed (s : State) (p : Nat) : (s.afterPortRead p).irqFeed = s.irqFeed := rfl
@[simp] theorem State.afterPortRead_portFeed (s : State) (p : Nat) : (s.afterPortRead p).portFeed = s.portFeed.tail := rfl
@[simp] theorem State.afterPortRead_osbLoaded (s : State) (p : Nat) : (s.afterPortRead p).osbLoaded = s.osbLoaded := rfl
@[simp] theorem State.afterPortRead_txbLoaded (s : State) (p : Nat) : (s.afterPortRead p).txbLoaded = s.txbLoaded := rfl
@[simp] theorem State.afterPortRead_reg (s : State) (p : Nat) (r : Reg) : (s.afterPortRead p).reg r = s.reg r := rfl
@[simp] theorem State.afterPortRead_readByte (s : State) (p : Nat) (a : Word) : (s.afterPortRead p).readByte a = s.readByte a := rfl
@[simp] theorem State.afterPortRead_readWord (s : State) (p : Nat) (a : Word) : (s.afterPortRead p).readWord a = s.readWord a := rfl
@[simp] theorem State.afterPortRead_cond (s : State) (p : Nat) (cc : Cond) : (s.afterPortRead p).cond cc = s.cond cc := by cases cc <;> rfl
@[simp] theorem State.afterPortRead_flags (s : State) (p : Nat) : (s.afterPortRead p).flags = s.flags := rfl
@[simp] theorem State.afterPortRead_swValue (s : State) (p : Nat) : (s.afterPortRead p).swValue = s.swValue := rfl
@[simp] theorem State.afterPortRead_irqEnables (s : State) (p : Nat) : (s.afterPortRead p).irqEnables = s.irqEnables := rfl

@[simp] theorem State.nextBoundary_regs (s : State) : (s.nextBoundary).regs = s.regs := rfl
@[simp] theorem State.nextBoundary_pc (s : State) : (s.nextBoundary).pc = s.pc := rfl
@[simp] theorem State.nextBoundary_ir (s : State) : (s.nextBoundary).ir = s.ir := rfl
@[simp] theorem State.nextBoundary_sw (s : State) : (s.nextBoundary).sw = s.sw := rfl
@[simp] theorem State.nextBoundary_osb (s : State) : (s.nextBoundary).osb = s.osb := rfl
@[simp] theorem State.nextBoundary_txb (s : State) : (s.nextBoundary).txb = s.txb := rfl
@[simp] theorem State.nextBoundary_rb (s : State) : (s.nextBoundary).rb = s.rb := rfl
@[simp] theorem State.nextBoundary_aluA (s : State) : (s.nextBoundary).aluA = s.aluA := rfl
@[simp] theorem State.nextBoundary_aluB (s : State) : (s.nextBoundary).aluB = s.aluB := rfl
@[simp] theorem State.nextBoundary_aluR (s : State) : (s.nextBoundary).aluR = s.aluR := rfl
@[simp] theorem State.nextBoundary_mem (s : State) : (s.nextBoundary).mem = s.mem := rfl
@[simp] theorem State.nextBoundary_irqLines (s : State) : (s.nextBoundary).irqLines = s.nextLines := rfl
@[simp] theorem State.nextBoundary_events (s : State) : (s.nextBoundary).events = s.events := rfl
@[simp] theorem State.nextBoundary_boundary (s : State) : (s.nextBoundary).boundary = s.boundary + 1 := rfl
@[simp] theorem State.nextBoundary_irqFeed (s : State) : (s.nextBoundary).irqFeed = s.irqFeed.tail := rfl
@[simp] theorem State.nextBoundary_portFeed (s : State) : (s.nextBoundary).portFeed = s.portFeed := rfl
@[simp] theorem State.nextBoundary_osbLoaded (s : State) : (s.nextBoundary).osbLoaded = s.osbLoaded := rfl
@[simp] theorem State.nextBoundary_txbLoaded (s : State) : (s.nextBoundary).txbLoaded = s.txbLoaded := rfl
@[simp] theorem State.nextBoundary_reg (s : State) (r : Reg) : (s.nextBoundary).reg r = s.reg r := rfl
@[simp] theorem State.nextBoundary_readByte (s : State) (a : Word) : (s.nextBoundary).readByte a = s.readByte a := rfl
@[simp] theorem State.nextBoundary_readWord (s : State) (a : Word) : (s.nextBoundary).readWord a = s.readWord a := rfl
@[simp] theorem State.nextBoundary_cond (s : State) (cc : Cond) : (s.nextBoundary).cond cc = s.cond cc := by cases cc <;> rfl
@[simp] theorem State.nextBoundary_flags (s : State) : (s.nextBoundary).flags = s.flags := rfl
@[simp] theorem State.nextBoundary_swValue (s : State) : (s.nextBoundary).swValue = s.swValue := rfl
@[simp] theorem State.nextBoundary_irqEnables (s : State) : (s.nextBoundary).irqEnables = s.irqEnables := rfl

@[simp] theorem State.fetched_regs (s : State) : (s.fetched).regs = s.regs := rfl
@[simp] theorem State.fetched_pc (s : State) : (s.fetched).pc = s.pc + 2 := rfl
@[simp] theorem State.fetched_ir (s : State) : (s.fetched).ir = s.readWord s.pc := rfl
@[simp] theorem State.fetched_sw (s : State) : (s.fetched).sw = s.sw := rfl
@[simp] theorem State.fetched_osb (s : State) : (s.fetched).osb = s.osb := rfl
@[simp] theorem State.fetched_txb (s : State) : (s.fetched).txb = s.txb := rfl
@[simp] theorem State.fetched_rb (s : State) : (s.fetched).rb = s.rb := rfl
@[simp] theorem State.fetched_aluA (s : State) : (s.fetched).aluA = s.aluA := rfl
@[simp] theorem State.fetched_aluB (s : State) : (s.fetched).aluB = s.aluB := rfl
@[simp] theorem State.fetched_aluR (s : State) : (s.fetched).aluR = s.aluR := rfl
@[simp] theorem State.fetched_mem (s : State) : (s.fetched).mem = s.mem := rfl
@[simp] theorem State.fetched_irqLines (s : State) : (s.fetched).irqLines = s.irqLines := rfl
@[simp] theorem State.fetched_events (s : State) : (s.fetched).events = s.events := rfl
@[simp] theorem State.fetched_boundary (s : State) : (s.fetched).boundary = s.boundary := rfl
@[simp] theorem State.fetched_irqFeed (s : State) : (s.fetched).irqFeed = s.irqFeed := rfl
@[simp] theorem State.fetched_portFeed (s : State) : (s.fetched).portFeed = s.portFeed := rfl
@[simp] theorem State.fetched_osbLoaded (s : State) : (s.fetched).osbLoaded = s.osbLoaded := rfl
@[simp] theorem State.fetched_txbLoaded (s : State) : (s.fetched).txbLoaded = s.txbLoaded := rfl
@[simp] theorem State.fetched_reg (s : State) (r : Reg) : (s.fetched).reg r = s.reg r := rfl
@[simp] theorem State.fetched_readByte (s : State) (a : Word) : (s.fetched).readByte a = s.readByte a := rfl
@[simp] theorem State.fetched_readWord (s : State) (a : Word) : (s.fetched).readWord a = s.readWord a := rfl
@[simp] theorem State.fetched_cond (s : State) (cc : Cond) : (s.fetched).cond cc = s.cond cc := by cases cc <;> rfl
@[simp] theorem State.fetched_flags (s : State) : (s.fetched).flags = s.flags := rfl
@[simp] theorem State.fetched_swValue (s : State) : (s.fetched).swValue = s.swValue := rfl
@[simp] theorem State.fetched_irqEnables (s : State) : (s.fetched).irqEnables = s.irqEnables := rfl

end Sys2Proof.Machine
end

