-- ==== Sys2Proof/Laws/Ops.lean ====
section
/-! SUPPORT. One lemma for each shared operation: what it does to registers, bytes of memory and the other fields. -/

namespace Sys2Proof.Machine

/-! ## Registers and bytes -/

@[simp] theorem State.reg_setReg (s : State) (d r : Reg) (v : Word) :
    (s.setReg d v).reg r = if r = d then v else s.reg r := by
  simp only [State.reg, State.setReg, Vector.getElem_set, Fin.ext_iff, eq_comm]

/-- Two register files with the same registers are equal. -/
theorem State.regs_ext {s t : State} (h : ∀ r, s.reg r = t.reg r) : s.regs = t.regs :=
  Vector.ext fun i hi => h ⟨i, hi⟩

theorem State.reg_setLob (s : State) (d r : Reg) (b : Byte) :
    (s.setLob d b).reg r = if r = d then wordOfBytes (hob (s.reg d)) b else s.reg r := by
  simp [State.setLob]

@[simp] theorem State.readByte_writeByte (s : State) (k a : Word) (b : Byte) :
    (s.writeByte k b).readByte a = if a = k then b else s.readByte a := by
  simp [State.readByte, Memory.readAt_writeAt, ← BitVec.toNat_inj]

theorem word_add_one_ne (a : Word) : a + 1 ≠ a := by simp

/-- `MemWrite(a, 2, v)`, byte by byte (R51, R53). -/
theorem State.readByte_writeWord (s : State) (k v a : Word) :
    (s.writeWord k v).readByte a = if a = k + 1 then lob v else if a = k then hob v else s.readByte a := by
  simp [State.writeWord]

/-- A word read back where it was written (R53). -/
theorem State.readWord_writeWord_same (s : State) (k v : Word) : (s.writeWord k v).readWord k = v := by
  simp [State.readWord, State.readByte_writeWord]

theorem State.writeByte_wf {s : State} (a : Word) (b : Byte) (h : s.mem.wf) : (s.writeByte a b).mem.wf :=
  Memory.writeAt_wf b a.isLt h

theorem State.writeWord_wf {s : State} (a v : Word) (h : s.mem.wf) : (s.writeWord a v).mem.wf :=
  State.writeByte_wf _ _ (State.writeByte_wf _ _ h)

/-! ## Composite updates: each is its two parts -/

/-- A state that differs from another in registers and memory only. -/
theorem State.pushWord_eq (s : State) (v : Word) :
    s.pushWord v = { s with regs := (s.pushWord v).regs, mem := (s.pushWord v).mem } := rfl

theorem State.reg_pushWord (s : State) (v : Word) (r : Reg) :
    (s.pushWord v).reg r = if r = Reg.sp then s.reg Reg.sp - 2 else s.reg r := by
  simp [State.pushWord, State.writeWord]

theorem State.readByte_pushWord (s : State) (v a : Word) :
    (s.pushWord v).readByte a =
      if a = s.reg Reg.sp - 2 + 1 then lob v else if a = s.reg Reg.sp - 2 then hob v else s.readByte a := by
  simp [State.pushWord, State.readByte_writeWord]

theorem State.pushByte_eq (s : State) (b : Byte) :
    s.pushByte b = { s with regs := (s.pushByte b).regs, mem := (s.pushByte b).mem } := rfl

theorem State.reg_pushByte (s : State) (b : Byte) (r : Reg) :
    (s.pushByte b).reg r = if r = Reg.sp then s.reg Reg.sp - 1 else s.reg r := by
  simp [State.pushByte]

theorem State.readByte_pushByte (s : State) (b : Byte) (a : Word) :
    (s.pushByte b).readByte a = if a = s.reg Reg.sp - 1 then b else s.readByte a := by
  simp [State.pushByte]

/-- `POPW()` after `PUSHW(v)` returns `v` and restores SP (R141). -/
theorem State.topWord_pushWord (s : State) (v : Word) : (s.pushWord v).topWord = v := by
  have h : (s.pushWord v).reg Reg.sp = s.reg Reg.sp - 2 := by simp [State.reg_pushWord]
  rw [State.topWord, h]
  exact State.readWord_writeWord_same _ _ _

theorem State.reg_dropBytes (s : State) (n : Word) (r : Reg) :
    (s.dropBytes n).reg r = if r = Reg.sp then s.reg Reg.sp + n else s.reg r := by
  simp [State.dropBytes]

/-- What the frame of a trap or an interrupt leaves in registers, memory and the rest (R265). -/
theorem State.pushFrame_eq (s : State) :
    s.pushFrame = { s with regs := s.pushFrame.regs, mem := s.pushFrame.mem } := rfl

theorem State.reg_pushFrame (s : State) (r : Reg) :
    s.pushFrame.reg r = if r = Reg.sp then s.reg Reg.sp - 2 - 2 else s.reg r := by
  simp [State.pushFrame, State.reg_pushWord]; split <;> simp

/-- The shared entry changes registers, memory, `pc` and, when told to mask, the enables. -/
theorem State.enterVector_eq (s : State) (e : Word) (mask : Bool) :
    s.enterVector e mask =
      { s with
        regs := s.pushFrame.regs, mem := s.pushFrame.mem
        sw := if mask then (s.setIrqEnables 0#8).sw else s.sw
        pc := (s.enterVector e mask).pc } := by
  cases mask <;> rfl

/-- The shared return: registers, SW and `pc` (R189, R263). -/
theorem State.leaveVector_eq (s : State) :
    s.leaveVector =
      { s with
        regs := ((s.dropBytes 2).dropBytes 2).regs
        sw := s.topWord &&& 0xF0FF#16
        pc := s.readWord (s.reg Reg.sp + 2) } := by
  have h : (s.dropBytes 2).reg Reg.sp = s.reg Reg.sp + 2 := by simp [State.reg_dropBytes]
  simp only [State.leaveVector, State.setPc, State.setSw, State.dropBytes, State.topWord] at *
  simp [State.setReg, State.reg, State.readWord, State.readByte] at *

/-- The four bytes of the frame, at SP - 4 to SP - 1 (R265); every other byte is kept. -/
theorem State.readByte_pushFrame (s : State) (a : Word) :
    s.pushFrame.readByte a =
      if a = s.reg Reg.sp - 3 then lob s.swValue
      else if a = s.reg Reg.sp - 4 then hob s.swValue
      else if a = s.reg Reg.sp - 1 then lob s.pc
      else if a = s.reg Reg.sp - 2 then hob s.pc
      else s.readByte a := by
  have h1 : s.reg Reg.sp - 2 + 1 = s.reg Reg.sp - 1 := by bv_omega
  have h2 : s.reg Reg.sp - 2 - 2 = s.reg Reg.sp - 4 := by bv_omega
  have h3 : s.reg Reg.sp - 4 + 1 = s.reg Reg.sp - 3 := by bv_omega
  rw [State.pushFrame, State.readByte_pushWord, State.readByte_pushWord, State.reg_pushWord, if_pos rfl, h1, h2, h3]

/-- Under the default `TRAP_VECTOR_INDIRECT`, entry goes to the table address itself (R187, R258). -/
theorem State.enterVector_pc (s : State) (e : Word) (mask : Bool) : (s.enterVector e mask).pc = e := rfl

/-- Interrupt entry: the frame, the table's address and the entry in the history; SW is kept under the default
`IRQ_AUTO_MASK` (R258, R259). -/
theorem State.takeInterrupt_eq (s : State) (n : Fin 8) :
    s.takeInterrupt n =
      { s with
        regs := s.pushFrame.regs, mem := s.pushFrame.mem, pc := ivtEntry n
        events := .entry n :: s.events } := rfl

/-- A call: the return address is pushed and `pc` is the register's old value (R185). -/
theorem State.call_eq (s : State) (r : Reg) :
    s.call r = { s with regs := (s.pushWord s.pc).regs, mem := (s.pushWord s.pc).mem, pc := s.reg r } := rfl

/-- A conditional call is the call or nothing (R186). -/
theorem State.callIf_eq (s : State) (cc : Cond) (r : Reg) : s.callIf cc r = if s.cond cc = true then s.call r else s := rfl

/-- A branch changes `pc` at most. -/
theorem State.branchIf_eq (s : State) (cc : Cond) (t : Word) :
    s.branchIf cc t = { s with pc := if s.cond cc then t else s.pc } := by
  cases h : s.cond cc <;> simp [State.branchIf, h, State.setPc]

/-- A pending line is enabled and requesting, and no lower line is both (R257, R260). -/
theorem State.pendingLine_some {s : State} {n : Fin 8} (h : s.pendingLine = some n) :
    s.irqEnables.getLsbD n.val = true ∧ s.irqLines.getLsbD n.val = true := by
  have := List.find?_some h
  simpa using this

theorem find_lowest (f : Fin 8 → Bool) (n : Fin 8) (hn : f n = true) (hl : ∀ m, m < n → f m = false) :
    [(0 : Fin 8), 1, 2, 3, 4, 5, 6, 7].find? f = some n := by
  have h0 := hl 0; have h1 := hl 1; have h2 := hl 2; have h3 := hl 3
  have h4 := hl 4; have h5 := hl 5; have h6 := hl 6
  fin_cases n <;> simp_all [List.find?]

/-- The lowest line that is both enabled and requesting is the pending one (R257, R260). -/
theorem State.pendingLine_eq_some {s : State} {n : Fin 8} (he : s.irqEnables.getLsbD n.val = true)
    (hr : s.irqLines.getLsbD n.val = true)
    (hl : ∀ m, m < n → ¬(s.irqEnables.getLsbD m.val = true ∧ s.irqLines.getLsbD m.val = true)) :
    s.pendingLine = some n := by
  refine find_lowest _ n (by rw [he, hr]; rfl) fun m hm => ?_
  have := hl m hm
  rw [← Bool.and_eq_true] at this
  exact Bool.eq_false_iff.mpr this

/-- No line is pending exactly when no line is both enabled and requesting (R257). -/
theorem State.pendingLine_eq_none {s : State} :
    s.pendingLine = none ↔ ∀ m : Fin 8, ¬(s.irqEnables.getLsbD m.val = true ∧ s.irqLines.getLsbD m.val = true) := by
  simp only [State.pendingLine, List.find?_eq_none, Bool.and_eq_true]
  exact ⟨fun h m => h m (by fin_cases m <;> simp), fun h m _ => h m⟩

end Sys2Proof.Machine
end

