-- ==== Sys2Proof/Laws/Flags.lean ====
section
/-! SUPPORT. The condition codes after `SetFlags`, the bits it leaves alone (R161), and the writes of the ALU forms. -/

namespace Sys2Proof.Machine

@[simp] theorem State.flagN_setFlags (s : State) (f : Flags) : (s.setFlags f).flagN = f.n := by
  simp only [State.flagN, State.setFlags, BitVec.getLsbD_append]; simp

@[simp] theorem State.flagZ_setFlags (s : State) (f : Flags) : (s.setFlags f).flagZ = f.z := by
  simp only [State.flagZ, State.setFlags, BitVec.getLsbD_append]; simp

@[simp] theorem State.flagC_setFlags (s : State) (f : Flags) : (s.setFlags f).flagC = f.c := by
  simp only [State.flagC, State.setFlags, BitVec.getLsbD_append]; simp

@[simp] theorem State.flagO_setFlags (s : State) (f : Flags) : (s.setFlags f).flagO = f.o := by
  simp only [State.flagO, State.setFlags, BitVec.getLsbD_append]; simp

/-- The low twelve bits of SW, reserved and enables, are not touched by the flags (R150, R161). -/
theorem State.swLow_setFlags (s : State) (f : Flags) :
    (s.setFlags f).sw.extractLsb' 0 12 = s.sw.extractLsb' 0 12 := by
  apply BitVec.eq_of_getLsbD_eq
  intro i hi
  simp only [State.setFlags, BitVec.getLsbD_append, BitVec.getLsbD_extractLsb']
  interval_cases i <;> simp

theorem State.getLsbD_setIrqEnables (s : State) (m : BitVec 8) (k : Nat) :
    (s.setIrqEnables m).sw.getLsbD k = if k < 8 then m.getLsbD k else s.sw.getLsbD k := by
  simp only [State.setIrqEnables, BitVec.getLsbD_append, BitVec.getLsbD_extractLsb']
  by_cases h : k < 8
  · simp [h]
  · by_cases h' : k < 16
    · have : 8 + (k - 8) = k := by omega
      simp [h, this]; omega
    · simp [h]
      have h1 : s.sw.getLsbD k = false := BitVec.getLsbD_of_ge _ _ (by omega)
      simp [h1]; omega

theorem State.getLsbD_irqEnables (s : State) (k : Nat) : s.irqEnables.getLsbD k = (decide (k < 8) && s.sw.getLsbD k) := by
  simp [State.irqEnables]

/-- The write of a 16-bit ALU result (R33, R150, R161). -/
theorem State.writeAlu_eq (s : State) (a b : Word) (d : Reg) (r : AluResult) :
    s.writeAlu a b d r =
      { s with
        regs := (s.setReg d r.value).regs, sw := (s.setFlags r.flags).sw
        aluA := a, aluB := b, aluR := r.value.setWidth 32 } := rfl

theorem State.reg_writeAlu (s : State) (a b : Word) (d q : Reg) (r : AluResult) :
    (s.writeAlu a b d r).reg q = if q = d then r.value else s.reg q := by
  simp [State.writeAlu]

/-- The write of MUL and DIV: `$R8` and `$R9`, the flags and the latches (R23, R33, R150). -/
theorem State.aluWide_eq (s : State) (f : Word → Word → WideResult) (o1 o2 : Reg) :
    s.aluWide f o1 o2 =
      { s with
        regs := (s.aluWide f o1 o2).regs, sw := (s.setFlags (f (s.reg o1) (s.reg o2)).flags).sw
        aluA := s.reg o1, aluB := s.reg o2
        aluR := (f (s.reg o1) (s.reg o2)).hi ++ (f (s.reg o1) (s.reg o2)).lo } := rfl

theorem State.reg_aluWide (s : State) (f : Word → Word → WideResult) (o1 o2 q : Reg) :
    (s.aluWide f o1 o2).reg q =
      if q = Reg.r9 then (f (s.reg o1) (s.reg o2)).lo
      else if q = Reg.r8 then (f (s.reg o1) (s.reg o2)).hi
      else s.reg q := by
  simp [State.aluWide]

@[simp] theorem AluResult.ofValue_value (r : Word) (c o : Bool) : (AluResult.ofValue r c o).value = r := rfl

@[simp] theorem AluResult.ofValue_flags (r : Word) (c o : Bool) :
    (AluResult.ofValue r c o).flags = ⟨r.msb, r == 0#16, c, o⟩ := rfl

end Sys2Proof.Machine
end

