-- ==== Sys2Proof/Laws/Frames.lean ====
section
/-! SUPPORT. The small lemmas of the terms of Safety.lean and of the must-be-zero bits: what is stored where, and that
clearing the must-be-zero bits keeps a word's opcode. -/

namespace Sys2Proof.Machine

@[simp] theorem wordCells_addresses (a v : Word) : (wordCells a v).map Prod.fst = wordBytes a := rfl

theorem lookup_wordCells (a v k : Word) :
    (wordCells a v).lookup k = if k = a then some (hob v) else if k = a + 1 then some (lob v) else none := by
  by_cases h : k = a <;> by_cases h' : k = a + 1 <;> simp_all [wordCells, List.lookup, beq_eq_false_iff_ne.2]

/-- A word store, read back through the cells it stores. -/
theorem State.readByte_writeWord_cells (s : State) (a v k : Word) :
    (s.writeWord a v).readByte k = ((wordCells a v).lookup k).getD (s.readByte k) := by
  rw [State.readByte_writeWord, lookup_wordCells]
  by_cases h : k = a
  · subst h; simp
  · rw [if_neg h, if_neg h]; split <;> rfl

@[simp] theorem whenTaken_map {α β : Type} (f : α → β) (cc : Cond) (s : State) (xs : List α) :
    (whenTaken cc s xs).map f = whenTaken cc s (xs.map f) := by
  unfold whenTaken; split <;> rfl

/-- No must-be-zero bit is a bit of the opcode (R97). -/
theorem mustBeZeroBits_opcode (w : Word) : (mustBeZeroBits w).extractLsb' 11 5 = 0#5 := by
  unfold mustBeZeroBits
  split <;> first | rfl | (split <;> rfl)

@[simp] theorem opField_clearMustBeZero (w : Word) : opField (clearMustBeZero w) = opField w := by
  have h := mustBeZeroBits_opcode w
  unfold opField clearMustBeZero
  ext i hi
  have hb := congrArg (fun b : BitVec 5 => b.getLsbD i) h
  simp only [BitVec.getLsbD_extractLsb', hi, decide_true, Bool.true_and, BitVec.getLsbD_zero] at hb
  have h16 : 11 + i < 16 := by omega
  simpa [hb] using fun _ => h16

end Sys2Proof.Machine
end

