-- ==== Sys2Proof/Laws/Operands.lean ====
section
/-! SUPPORT. What the operand forms do: effective addresses, pointer updates, loads and stores in every mode (R111). -/

namespace Sys2Proof.Machine

theorem State.bump_eq (s : State) (m : Mode) (a : Reg) (n : Word) :
    s.bump m a n = { s with regs := (s.bump m a n).regs } := by
  cases m <;> rfl

theorem State.reg_bump (s : State) (m : Mode) (a r : Reg) (n : Word) :
    (s.bump m a n).reg r = if m = .index ∧ r = a then s.reg a + n else s.reg r := by
  cases m <;> simp [State.bump]

@[simp] theorem State.bump_readByte (s : State) (m : Mode) (a : Reg) (n k : Word) :
    (s.bump m a n).readByte k = s.readByte k := by
  cases m <;> rfl

/-- A byte load changes registers only. -/
theorem State.loadByte_eq (s : State) (m : Mode) (d a : Reg) :
    s.loadByte m d a = { s with regs := (s.loadByte m d a).regs } := by
  cases m <;> rfl

/-- A byte load: the pointer update first, the low byte of the destination last (R12). -/
theorem State.reg_loadByte (s : State) (m : Mode) (d a r : Reg) :
    (s.loadByte m d a).reg r =
      if r = d then wordOfBytes (hob ((s.bump m a 1).reg d)) (s.readByte (s.ea m a)) else (s.bump m a 1).reg r := by
  rw [State.loadByte, State.reg_setLob]

/-- A word load changes registers only. -/
theorem State.loadWord_eq (s : State) (m : Mode) (d a : Reg) :
    s.loadWord m d a = { s with regs := (s.loadWord m d a).regs } := by
  cases m <;> rfl

/-- A word load: the pointer update first, the destination last (R12). -/
theorem State.reg_loadWord (s : State) (m : Mode) (d a r : Reg) :
    (s.loadWord m d a).reg r = if r = d then s.readWord (s.ea m a) else (s.bump m a 2).reg r := by
  rw [State.loadWord, State.reg_setReg]

/-- A byte store changes registers and memory only. -/
theorem State.storeByte_eq (s : State) (m : Mode) (r a : Reg) :
    s.storeByte m r a = { s with regs := (s.storeByte m r a).regs, mem := (s.storeByte m r a).mem } := by
  cases m <;> rfl

/-- A byte store in memory: one byte at the effective address. -/
theorem State.readByte_storeByte (s : State) (m : Mode) (r a : Reg) (k : Word) :
    (s.storeByte m r a).readByte k = if k = s.ea m a then lob (s.reg r) else s.readByte k := by
  simp [State.storeByte]

/-- A byte store's registers: the pointer update at most. -/
theorem State.reg_storeByte (s : State) (m : Mode) (r a q : Reg) :
    (s.storeByte m r a).reg q = (s.bump m a 1).reg q := by
  simp [State.storeByte, State.reg_bump]

/-- A word store changes registers and memory only. -/
theorem State.storeWord_eq (s : State) (m : Mode) (r a : Reg) :
    s.storeWord m r a = { s with regs := (s.storeWord m r a).regs, mem := (s.storeWord m r a).mem } := by
  cases m <;> rfl

/-- A word store in memory: two bytes, big endian, at the effective address. -/
theorem State.readByte_storeWord (s : State) (m : Mode) (r a : Reg) (k : Word) :
    (s.storeWord m r a).readByte k =
      if k = s.ea m a + 1 then lob (s.reg r) else if k = s.ea m a then hob (s.reg r) else s.readByte k := by
  simp [State.storeWord, State.readByte_writeWord]

/-- A word store's registers: the pointer update at most. -/
theorem State.reg_storeWord (s : State) (m : Mode) (r a q : Reg) :
    (s.storeWord m r a).reg q = (s.bump m a 2).reg q := by
  simp [State.storeWord, State.writeWord, State.reg_bump]

end Sys2Proof.Machine
end

