-- ==== Sys2Proof/Laws/PerInstr.lean ====
section
/-! SUPPORT. The family EncodeLength, said for each instruction (spec/30_encoding.md R80): its encoding has the length its
opcode tells. -/

namespace Sys2Proof.Laws

/-- An instruction's encoding is one word, or two for LDA, and its first word's opcode says which (R80). -/
def EncodeLength.Statement (i : Instr) : Prop :=
  ∃ w rest, encode i = w :: rest ∧ rest.length = (if hasOperandWord w then 1 else 0) ∧
    (encodeBytes i).length = 2 + 2 * rest.length

theorem EncodeLength.ldi (x : Reg) (y : BitVec 7) : EncodeLength.Statement (.ldi x y) :=
  ⟨_, _, rfl, by simp [hasOperandWord], rfl⟩
theorem EncodeLength.lda (x : Reg) (y : Word) : EncodeLength.Statement (.lda x y) :=
  ⟨_, _, rfl, by simp [hasOperandWord], rfl⟩
theorem EncodeLength.ldbReg (x y : Reg) : EncodeLength.Statement (.ldbReg x y) :=
  ⟨_, _, rfl, by simp [hasOperandWord], rfl⟩
theorem EncodeLength.ldbBase (x y : Reg) : EncodeLength.Statement (.ldbBase x y) :=
  ⟨_, _, rfl, by simp [hasOperandWord], rfl⟩
theorem EncodeLength.ldbIdx (x : Reg) : EncodeLength.Statement (.ldbIdx x) :=
  ⟨_, _, rfl, by simp [hasOperandWord], rfl⟩
theorem EncodeLength.ldbInd (x y : Reg) : EncodeLength.Statement (.ldbInd x y) :=
  ⟨_, _, rfl, by simp [hasOperandWord], rfl⟩
theorem EncodeLength.ldwReg (x y : Reg) : EncodeLength.Statement (.ldwReg x y) :=
  ⟨_, _, rfl, by simp [hasOperandWord], rfl⟩
theorem EncodeLength.ldwBase (x y : Reg) : EncodeLength.Statement (.ldwBase x y) :=
  ⟨_, _, rfl, by simp [hasOperandWord], rfl⟩
theorem EncodeLength.ldwIdx (x : Reg) : EncodeLength.Statement (.ldwIdx x) :=
  ⟨_, _, rfl, by simp [hasOperandWord], rfl⟩
theorem EncodeLength.ldwInd (x y : Reg) : EncodeLength.Statement (.ldwInd x y) :=
  ⟨_, _, rfl, by simp [hasOperandWord], rfl⟩
theorem EncodeLength.mov (x y : Reg) : EncodeLength.Statement (.mov x y) :=
  ⟨_, _, rfl, by simp [hasOperandWord], rfl⟩
theorem EncodeLength.stbReg (x y : Reg) : EncodeLength.Statement (.stbReg x y) :=
  ⟨_, _, rfl, by simp [hasOperandWord], rfl⟩
theorem EncodeLength.stbBase (x y : Reg) : EncodeLength.Statement (.stbBase x y) :=
  ⟨_, _, rfl, by simp [hasOperandWord], rfl⟩
theorem EncodeLength.stbIdx (x : Reg) : EncodeLength.Statement (.stbIdx x) :=
  ⟨_, _, rfl, by simp [hasOperandWord], rfl⟩
theorem EncodeLength.stbInd (x y : Reg) : EncodeLength.Statement (.stbInd x y) :=
  ⟨_, _, rfl, by simp [hasOperandWord], rfl⟩
theorem EncodeLength.stwReg (x y : Reg) : EncodeLength.Statement (.stwReg x y) :=
  ⟨_, _, rfl, by simp [hasOperandWord], rfl⟩
theorem EncodeLength.stwBase (x y : Reg) : EncodeLength.Statement (.stwBase x y) :=
  ⟨_, _, rfl, by simp [hasOperandWord], rfl⟩
theorem EncodeLength.stwIdx (x : Reg) : EncodeLength.Statement (.stwIdx x) :=
  ⟨_, _, rfl, by simp [hasOperandWord], rfl⟩
theorem EncodeLength.stwInd (x y : Reg) : EncodeLength.Statement (.stwInd x y) :=
  ⟨_, _, rfl, by simp [hasOperandWord], rfl⟩
theorem EncodeLength.pushb (x : Reg) : EncodeLength.Statement (.pushb x) :=
  ⟨_, _, rfl, by simp [hasOperandWord], rfl⟩
theorem EncodeLength.popb (x : Reg) : EncodeLength.Statement (.popb x) :=
  ⟨_, _, rfl, by simp [hasOperandWord], rfl⟩
theorem EncodeLength.pushw (x : Reg) : EncodeLength.Statement (.pushw x) :=
  ⟨_, _, rfl, by simp [hasOperandWord], rfl⟩
theorem EncodeLength.popw (x : Reg) : EncodeLength.Statement (.popw x) :=
  ⟨_, _, rfl, by simp [hasOperandWord], rfl⟩
theorem EncodeLength.add (x y : Reg) : EncodeLength.Statement (.add x y) :=
  ⟨_, _, rfl, by simp [hasOperandWord], rfl⟩
theorem EncodeLength.sub (x y : Reg) : EncodeLength.Statement (.sub x y) :=
  ⟨_, _, rfl, by simp [hasOperandWord], rfl⟩
theorem EncodeLength.mul (x y : Reg) : EncodeLength.Statement (.mul x y) :=
  ⟨_, _, rfl, by simp [hasOperandWord], rfl⟩
theorem EncodeLength.div (x y : Reg) : EncodeLength.Statement (.div x y) :=
  ⟨_, _, rfl, by simp [hasOperandWord], rfl⟩
theorem EncodeLength.bitAnd (x y : Reg) : EncodeLength.Statement (.bitAnd x y) :=
  ⟨_, _, rfl, by simp [hasOperandWord], rfl⟩
theorem EncodeLength.bitOr (x y : Reg) : EncodeLength.Statement (.bitOr x y) :=
  ⟨_, _, rfl, by simp [hasOperandWord], rfl⟩
theorem EncodeLength.bitXor (x y : Reg) : EncodeLength.Statement (.bitXor x y) :=
  ⟨_, _, rfl, by simp [hasOperandWord], rfl⟩
theorem EncodeLength.bitNot (x : Reg) : EncodeLength.Statement (.bitNot x) :=
  ⟨_, _, rfl, by simp [hasOperandWord], rfl⟩
theorem EncodeLength.shl (x y : Reg) : EncodeLength.Statement (.shl x y) :=
  ⟨_, _, rfl, by simp [hasOperandWord], rfl⟩
theorem EncodeLength.shr (x y : Reg) : EncodeLength.Statement (.shr x y) :=
  ⟨_, _, rfl, by simp [hasOperandWord], rfl⟩
theorem EncodeLength.brImm (x : BitVec 11) : EncodeLength.Statement (.brImm x) :=
  ⟨_, _, rfl, by simp [hasOperandWord], rfl⟩
theorem EncodeLength.brReg (x : Reg) : EncodeLength.Statement (.brReg x) :=
  ⟨_, _, rfl, by simp [hasOperandWord], rfl⟩
theorem EncodeLength.brnImm (x : BitVec 9) : EncodeLength.Statement (.brnImm x) :=
  ⟨_, _, rfl, by simp [hasOperandWord], rfl⟩
theorem EncodeLength.brzImm (x : BitVec 9) : EncodeLength.Statement (.brzImm x) :=
  ⟨_, _, rfl, by simp [hasOperandWord], rfl⟩
theorem EncodeLength.brcImm (x : BitVec 9) : EncodeLength.Statement (.brcImm x) :=
  ⟨_, _, rfl, by simp [hasOperandWord], rfl⟩
theorem EncodeLength.broImm (x : BitVec 9) : EncodeLength.Statement (.broImm x) :=
  ⟨_, _, rfl, by simp [hasOperandWord], rfl⟩
theorem EncodeLength.brnReg (x : Reg) : EncodeLength.Statement (.brnReg x) :=
  ⟨_, _, rfl, by simp [hasOperandWord], rfl⟩
theorem EncodeLength.brzReg (x : Reg) : EncodeLength.Statement (.brzReg x) :=
  ⟨_, _, rfl, by simp [hasOperandWord], rfl⟩
theorem EncodeLength.brcReg (x : Reg) : EncodeLength.Statement (.brcReg x) :=
  ⟨_, _, rfl, by simp [hasOperandWord], rfl⟩
theorem EncodeLength.broReg (x : Reg) : EncodeLength.Statement (.broReg x) :=
  ⟨_, _, rfl, by simp [hasOperandWord], rfl⟩
theorem EncodeLength.jsr (x : Reg) : EncodeLength.Statement (.jsr x) :=
  ⟨_, _, rfl, by simp [hasOperandWord], rfl⟩
theorem EncodeLength.jsrn (x : Reg) : EncodeLength.Statement (.jsrn x) :=
  ⟨_, _, rfl, by simp [hasOperandWord], rfl⟩
theorem EncodeLength.jsrz (x : Reg) : EncodeLength.Statement (.jsrz x) :=
  ⟨_, _, rfl, by simp [hasOperandWord], rfl⟩
theorem EncodeLength.jsrc (x : Reg) : EncodeLength.Statement (.jsrc x) :=
  ⟨_, _, rfl, by simp [hasOperandWord], rfl⟩
theorem EncodeLength.jsro (x : Reg) : EncodeLength.Statement (.jsro x) :=
  ⟨_, _, rfl, by simp [hasOperandWord], rfl⟩
theorem EncodeLength.trap (x : BitVec 6) : EncodeLength.Statement (.trap x) :=
  ⟨_, _, rfl, by simp [hasOperandWord], rfl⟩
theorem EncodeLength.ret : EncodeLength.Statement .ret :=
  ⟨_, _, rfl, by simp [hasOperandWord], rfl⟩
theorem EncodeLength.reti : EncodeLength.Statement .reti :=
  ⟨_, _, rfl, by simp [hasOperandWord], rfl⟩
theorem EncodeLength.portIn (x : Reg) (y : Nat) : EncodeLength.Statement (.portIn x y) :=
  ⟨_, _, rfl, by simp [hasOperandWord], rfl⟩
theorem EncodeLength.portOut (x : Reg) (y : Nat) : EncodeLength.Statement (.portOut x y) :=
  ⟨_, _, rfl, by simp [hasOperandWord], rfl⟩
theorem EncodeLength.ei (x : Byte) : EncodeLength.Statement (.ei x) :=
  ⟨_, _, rfl, by simp [hasOperandWord], rfl⟩
theorem EncodeLength.di (x : Byte) : EncodeLength.Statement (.di x) :=
  ⟨_, _, rfl, by simp [hasOperandWord], rfl⟩
theorem EncodeLength.halt : EncodeLength.Statement .halt :=
  ⟨_, _, rfl, by simp [hasOperandWord], rfl⟩
theorem EncodeLength.nop : EncodeLength.Statement .nop :=
  ⟨_, _, rfl, by simp [hasOperandWord], rfl⟩
theorem EncodeLength.ldos (x : BitVec 11) : EncodeLength.Statement (.ldos x) :=
  ⟨_, _, rfl, by simp [hasOperandWord], rfl⟩
theorem EncodeLength.ldro (x : BitVec 11) : EncodeLength.Statement (.ldro x) :=
  ⟨_, _, rfl, by simp [hasOperandWord], rfl⟩

end Sys2Proof.Laws
end

