-- ==== Sys2Proof/Laws/Step.lean ====
section
/-! SUPPORT. What one step can do: the inversion of `step` under the default protection policy. -/

namespace Sys2Proof.Machine

@[simp] theorem onNext_next (f : State → State) (s : State) : onNext f (.next s) = .next (f s) := rfl
@[simp] theorem onNext_fault (f : State → State) (r : Fault) : onNext f (.fault r) = .fault r := rfl
@[simp] theorem onNext_refused (f : State → State) (r : Refusal) : onNext f (.refused r) = .refused r := rfl

theorem onNext_eq_next {f : State → State} {o : Host.Outcome State Fault Refusal} {t : State}
    (h : onNext f o = .next t) : ∃ u, o = .next u ∧ t = f u := by
  cases o with
  | next u => exact ⟨u, rfl, by simpa [eq_comm] using h⟩
  | fault r => simp at h
  | refused r => simp at h

/-- Under the default policy nothing is refused (R62). -/
@[simp] theorem refusesStore_default (s : State) : refusesStore Config.protectionPolicy s = false := rfl
@[simp] theorem refusesInstr_default (i : Instr) (s : State) : refusesInstr Config.protectionPolicy i s = false := rfl

theorem fetchExecute_eq (s : State) :
    fetchExecute s =
      match s.fetchInstr with
      | .error _ => .fault (.reservedEncoding (s.readWord s.pc) s.pc)
      | .ok i => onNext State.nextBoundary (exec i s.fetched) := by
  rw [fetchExecute]; cases s.fetchInstr <;> simp

theorem step_halted {s : State} (h : s.rb = false) : step s = .refused .halted := by simp [step, h]

theorem step_interrupt {s : State} {n : Fin 8} (hr : s.rb = true) (hp : s.pendingLine = some n) :
    step s = .next (s.takeInterrupt n).nextBoundary := by
  simp [step, hr, hp]

theorem step_fetch {s : State} (hr : s.rb = true) (hp : s.pendingLine = none) : step s = fetchExecute s := by
  simp [step, hr, hp]

/-- Everything a step with a next state can be: an interrupt entry, or one instruction (R300). -/
theorem step_cases {s t : State} (h : step s = .next t) :
    s.rb = true ∧
      ((∃ n, s.pendingLine = some n ∧ t = (s.takeInterrupt n).nextBoundary) ∨
        (s.pendingLine = none ∧
          ∃ i u, s.fetchInstr = .ok i ∧ exec i s.fetched = .next u ∧ t = u.nextBoundary)) := by
  cases hr : s.rb with
  | false => simp [step_halted hr] at h
  | true =>
    refine ⟨rfl, ?_⟩
    cases hp : s.pendingLine with
    | some n =>
      rw [step_interrupt hr hp] at h
      exact .inl ⟨n, rfl, by simpa [eq_comm] using h⟩
    | none =>
      rw [step_fetch hr hp, fetchExecute_eq] at h
      refine .inr ⟨rfl, ?_⟩
      cases hf : s.fetchInstr with
      | error e => simp [hf] at h
      | ok i =>
        simp only [hf] at h
        obtain ⟨u, hu, rfl⟩ := onNext_eq_next h
        exact ⟨i, u, rfl, hu, rfl⟩

end Sys2Proof.Machine
end

