-- ==== Sys2Proof/Tests/Slice0.lean ====
section
/-! SUPPORT. The model's own tests. Expected values come from spec/95_test_vectors.md (named in the docstrings) or by hand
from the rule named; the words of the decode tests are written out from the encodings of spec/30_encoding.md and the
instruction rules. A `witness_` theorem shows a state and operands that meet an obligation's hypotheses. -/

namespace Sys2Proof.Tests

open Sys2Proof Sys2Proof.Machine

/-! ## WellFormed smoke: each check refuses an ill-formed term -/

theorem test_wellformed_in_refuses_port_64 : (Instr.portIn 0 64).WellFormed = false := by decide
theorem test_wellformed_out_refuses_port_64 : (Instr.portOut 15 64).WellFormed = false := by decide
theorem test_wellformed_accepts_port_63 :
    (Instr.portIn 0 63).WellFormed = true ∧ (Instr.portOut 15 63).WellFormed = true := by decide

/-! ## Decoding: every constructor, from a word written out bit by bit from its encoding -/

/-- I7, A16 (R112, R113). -/
theorem test_decode_immediate_loads :
    decodeTableWord 16 0b00001_0011_1111110 = some (.ldi 3 0b1111110#7) ∧
    decodeTableWord 32 0b1010101111001101_00010_1111_0000000 = some (.lda 15 0xABCD#16) := by decide
/-- LDB (R114, R116, R118, R120). -/
theorem test_decode_ldb :
    decodeTableWord 16 0b00011_0001_0010_000 = some (.ldbReg 1 2) ∧
    decodeTableWord 16 0b00011_0001_0010_001 = some (.ldbBase 1 2) ∧
    decodeTableWord 16 0b00011_0001_1100_010 = some (.ldbIdx 1) ∧
    decodeTableWord 16 0b00011_0001_0010_011 = some (.ldbInd 1 2) := by decide
/-- LDW and MOV (R115, R117, R119, R121, R122). -/
theorem test_decode_ldw_mov :
    decodeTableWord 16 0b00100_1010_0101_000 = some (.ldwReg 10 5) ∧
    decodeTableWord 16 0b00100_1010_0101_001 = some (.ldwBase 10 5) ∧
    decodeTableWord 16 0b00100_1010_1100_010 = some (.ldwIdx 10) ∧
    decodeTableWord 16 0b00100_1010_0101_011 = some (.ldwInd 10 5) ∧
    decodeTableWord 16 0b00100_1010_0101_100 = some (.mov 10 5) := by decide
/-- STB and STW (R123 to R130). -/
theorem test_decode_stores :
    decodeTableWord 16 0b00101_0001_0010_000 = some (.stbReg 1 2) ∧
    decodeTableWord 16 0b00101_0001_0010_001 = some (.stbBase 1 2) ∧
    decodeTableWord 16 0b00101_0001_1101_010 = some (.stbIdx 1) ∧
    decodeTableWord 16 0b00101_0001_0010_011 = some (.stbInd 1 2) ∧
    decodeTableWord 16 0b00110_0001_0010_000 = some (.stwReg 1 2) ∧
    decodeTableWord 16 0b00110_0001_0010_001 = some (.stwBase 1 2) ∧
    decodeTableWord 16 0b00110_0001_1101_010 = some (.stwIdx 1) ∧
    decodeTableWord 16 0b00110_0001_0010_011 = some (.stwInd 1 2) := by decide
/-- The stack entries (R131 to R134). -/
theorem test_decode_stack :
    decodeTableWord 16 0b00111_0111_0000_000 = some (.pushb 7) ∧
    decodeTableWord 16 0b00111_0111_0000_001 = some (.popb 7) ∧
    decodeTableWord 16 0b00111_0111_0000_010 = some (.pushw 7) ∧
    decodeTableWord 16 0b00111_0111_0000_011 = some (.popw 7) := by decide
/-- The ten ALU entries (R151 to R160). -/
theorem test_decode_alu :
    decodeTableWord 16 0b01001_0001_0010_000 = some (.add 1 2) ∧
    decodeTableWord 16 0b01001_0001_0010_001 = some (.sub 1 2) ∧
    decodeTableWord 16 0b01001_0001_0010_010 = some (.mul 1 2) ∧
    decodeTableWord 16 0b01001_0001_0010_011 = some (.div 1 2) ∧
    decodeTableWord 16 0b01001_0001_0010_100 = some (.bitAnd 1 2) ∧
    decodeTableWord 16 0b01001_0001_0010_101 = some (.bitOr 1 2) ∧
    decodeTableWord 16 0b01001_0001_0010_110 = some (.bitXor 1 2) ∧
    decodeTableWord 16 0b01001_0001_0000_111 = some (.bitNot 1) ∧
    decodeTableWord 16 0b01000_0001_0010_000 = some (.shl 1 2) ∧
    decodeTableWord 16 0b01010_0001_0010_000 = some (.shr 1 2) := by decide
/-- The branches (R181 to R184). -/
theorem test_decode_branches :
    decodeTableWord 16 0b10000_10000000001 = some (.brImm 0b10000000001#11) ∧
    decodeTableWord 16 0b10001_0011_0000000 = some (.brReg 3) ∧
    decodeTableWord 16 0b10010_100000001_00 = some (.brnImm 0b100000001#9) ∧
    decodeTableWord 16 0b10010_000000110_01 = some (.brzImm 0b000000110#9) ∧
    decodeTableWord 16 0b10010_111111100_10 = some (.brcImm 0b111111100#9) ∧
    decodeTableWord 16 0b10010_011111111_11 = some (.broImm 0b011111111#9) ∧
    decodeTableWord 16 0b10011_0011_00000_00 = some (.brnReg 3) ∧
    decodeTableWord 16 0b10011_0011_00000_01 = some (.brzReg 3) ∧
    decodeTableWord 16 0b10011_0101_00000_10 = some (.brcReg 5) ∧
    decodeTableWord 16 0b10011_0101_00000_11 = some (.broReg 5) := by decide
/-- Calls, TRAP and the returns (R185 to R189). -/
theorem test_decode_calls :
    decodeTableWord 16 0b10100_0011_0000000 = some (.jsr 3) ∧
    decodeTableWord 16 0b10101_0011_00000_00 = some (.jsrn 3) ∧
    decodeTableWord 16 0b10101_0011_00000_01 = some (.jsrz 3) ∧
    decodeTableWord 16 0b10101_0011_00000_10 = some (.jsrc 3) ∧
    decodeTableWord 16 0b10101_1010_00000_11 = some (.jsro 10) ∧
    decodeTableWord 16 0b10110_111110_00000 = some (.trap 0b111110#6) ∧
    decodeTableWord 16 0b10111_0000000000_0 = some .ret ∧
    decodeTableWord 16 0b10111_0000000000_1 = some .reti := by decide
/-- I/O and miscellaneous (R214, R215, R231 to R236). -/
theorem test_decode_io_misc :
    decodeTableWord 16 0b11000_0001_111000_0 = some (.portIn 1 0x38) ∧
    decodeTableWord 16 0b11000_0000_110010_1 = some (.portOut 0 0x32) ∧
    decodeTableWord 16 0b11001_00000101_000 = some (.ei 0b00000101#8) ∧
    decodeTableWord 16 0b11001_11111011_001 = some (.di 0b11111011#8) ∧
    decodeTableWord 16 0b11010_00000000000 = some .halt ∧
    decodeTableWord 16 0b11011_00000000000 = some .nop ∧
    decodeTableWord 16 0b11100_00100000000 = some (.ldos 0x100#11) ∧
    decodeTableWord 16 0b11101_11111111100 = some (.ldro 0x7FC#11) := by decide
/-- Reserved encodings (V6): an unassigned opcode, a reserved mode, a wrong index register, a must-be-zero bit. -/
theorem test_decode_reserved :
    decodeTableWord 16 0x0000 = none ∧ decodeTableWord 16 0x5800 = none ∧ decodeTableWord 16 0xF800 = none ∧
    decodeTableWord 32 0x1001 = none ∧ decodeTableWord 16 0x1804 = none ∧ decodeTableWord 16 0x186A = none ∧
    decodeTableWord 16 0x2095 = none ∧ decodeTableWord 16 0x3888 = none ∧ decodeTableWord 16 0x4091 = none ∧
    decodeTableWord 16 0x488F = none ∧ decodeTableWord 16 0xB802 = none ∧ decodeTableWord 16 0xC802 = none := by decide

/-! ## One step of each instruction -/

/-- A machine about to fetch at `pc`, with these registers and these bytes of memory. -/
def start (pc sw : Word) (regs : List (Reg × Word)) (bytes : List (Word × Byte)) : State :=
  regs.foldl (fun s c => s.setReg c.1 c.2) { State.launch pc bytes [] [] with sw := sw }

/-- One step leads to this `pc`, this SW, these registers and these bytes. -/
def shows (s : State) (pc sw : Word) (regs : List (Reg × Word)) (bytes : List (Word × Byte)) : Bool :=
  match step s with
  | .next t => t.pc == pc && t.sw == sw && regs.all (fun c => t.reg c.1 == c.2) && bytes.all (fun c => t.readByte c.1 == c.2)
  | .fault _ | .refused _ => false

/-- V1.1 -/
theorem test_ldi_a : shows (start 0x3000 0x0000 [] [(0x3000, 0x09), (0x3001, 0xFE)])
    0x3002 0x0000 [(3, 0xFFFE)] [] = true := by decide
/-- V1.3 -/
theorem test_ldi_b : shows (start 0x3000 0x0000 [] [(0x3000, 0x08), (0x3001, 0x40)])
    0x3002 0x0000 [(0, 0xFFC0)] [] = true := by decide
/-- V1.4 -/
theorem test_lda_a : shows (start 0x3000 0x0000 [] [(0x3000, 0x17), (0x3001, 0x80), (0x3002, 0xFF), (0x3003, 0xFE)])
    0x3004 0x0000 [(15, 0xFFFE)] [] = true := by decide
/-- V1.5 -/
theorem test_lda_b : shows (start 0xFFFE 0x0000 [] [(0x0000, 0xAB), (0x0001, 0xCD), (0xFFFE, 0x17), (0xFFFF, 0x80)])
    0x0002 0x0000 [(15, 0xABCD)] [] = true := by decide
/-- V1.6 -/
theorem test_ldbReg_a : shows (start 0x3000 0x0000 [(1, 0xABCD), (2, 0x4000)] [(0x3000, 0x18), (0x3001, 0x90), (0x4000, 0x12)])
    0x3002 0x0000 [(1, 0xAB12), (2, 0x4000)] [] = true := by decide
/-- V1.7 -/
theorem test_ldbReg_b : shows (start 0x3000 0x0000 [(1, 0x4010)] [(0x3000, 0x18), (0x3001, 0x88), (0x4010, 0x7F)])
    0x3002 0x0000 [(1, 0x407F)] [] = true := by decide
/-- V1.11 -/
theorem test_ldbBase : shows (start 0x3000 0x0000 [(1, 0x0000), (2, 0x0005), (14, 0x4000)] [(0x3000, 0x18), (0x3001, 0x91), (0x4005, 0x99)])
    0x3002 0x0000 [(1, 0x0099), (2, 0x0005), (14, 0x4000)] [] = true := by decide
/-- V1.13 -/
theorem test_ldbIdx_a : shows (start 0x3000 0x0000 [(1, 0x0000), (12, 0x5000)] [(0x3000, 0x18), (0x3001, 0xE2), (0x5000, 0x41)])
    0x3002 0x0000 [(1, 0x0041), (12, 0x5001)] [] = true := by decide
/-- V1.35 -/
theorem test_ldbIdx_b : shows (start 0x3000 0x0000 [(12, 0x50FF)] [(0x3000, 0x1E), (0x3001, 0x62), (0x50FF, 0x41)])
    0x3002 0x0000 [(12, 0x5141)] [] = true := by decide
/-- V1.16 -/
theorem test_ldbInd : shows (start 0x3000 0x0000 [(1, 0x0000), (2, 0x4000)] [(0x3000, 0x18), (0x3001, 0x93), (0x4000, 0x50), (0x4001, 0x10), (0x5010, 0x77)])
    0x3002 0x0000 [(1, 0x0077), (2, 0x4000)] [] = true := by decide
/-- V1.9 -/
theorem test_ldwReg_a : shows (start 0x3000 0x0000 [(2, 0xFFFF)] [(0x0000, 0x34), (0x3000, 0x20), (0x3001, 0x90), (0xFFFF, 0x12)])
    0x3002 0x0000 [(1, 0x1234), (2, 0xFFFF)] [] = true := by decide
/-- V1.10 -/
theorem test_ldwReg_b : shows (start 0x3000 0x0000 [(1, 0x4000)] [(0x3000, 0x20), (0x3001, 0x88), (0x4000, 0x12), (0x4001, 0x34)])
    0x3002 0x0000 [(1, 0x1234)] [] = true := by decide
/-- V1.12 -/
theorem test_ldwBase : shows (start 0x3000 0x0000 [(2, 0xFFFE), (14, 0x4000)] [(0x3000, 0x20), (0x3001, 0x91), (0x3FFE, 0xBE), (0x3FFF, 0xEF)])
    0x3002 0x0000 [(1, 0xBEEF), (2, 0xFFFE), (14, 0x4000)] [] = true := by decide
/-- V1.15 -/
theorem test_ldwIdx_a : shows (start 0x3000 0x0000 [(12, 0xFFFF)] [(0x0000, 0xFE), (0x3000, 0x20), (0x3001, 0xE2), (0xFFFF, 0xCA)])
    0x3002 0x0000 [(1, 0xCAFE), (12, 0x0001)] [] = true := by decide
/-- V1.36 -/
theorem test_ldwIdx_b : shows (start 0x3000 0x0000 [(12, 0x5000)] [(0x3000, 0x26), (0x3001, 0x62), (0x5000, 0xCA), (0x5001, 0xFE)])
    0x3002 0x0000 [(12, 0xCAFE)] [] = true := by decide
/-- V1.17 -/
theorem test_ldwInd : shows (start 0x3000 0x0000 [(2, 0x4000)] [(0x3000, 0x20), (0x3001, 0x93), (0x4000, 0x50), (0x4001, 0x10), (0x5010, 0x12), (0x5011, 0x34)])
    0x3002 0x0000 [(1, 0x1234), (2, 0x4000)] [] = true := by decide
/-- V1.18 -/
theorem test_mov : shows (start 0x3000 0x0000 [(2, 0x8001)] [(0x3000, 0x20), (0x3001, 0x94)])
    0x3002 0x0000 [(1, 0x8001), (2, 0x8001)] [] = true := by decide
/-- V1.19 -/
theorem test_stbReg : shows (start 0x3000 0x0000 [(1, 0x1234), (2, 0x4000)] [(0x3000, 0x28), (0x3001, 0x90), (0x4001, 0xEE)])
    0x3002 0x0000 [(1, 0x1234), (2, 0x4000)] [(0x4000, 0x34), (0x4001, 0xEE)] = true := by decide
/-- V1.22 -/
theorem test_stbBase : shows (start 0x3000 0x0000 [(1, 0x00AA), (2, 0x0005), (14, 0x4000)] [(0x3000, 0x28), (0x3001, 0x91)])
    0x3002 0x0000 [(1, 0x00AA), (2, 0x0005), (14, 0x4000)] [(0x4005, 0xAA)] = true := by decide
/-- V1.24 -/
theorem test_stbIdx : shows (start 0x3000 0x0000 [(1, 0x0041), (13, 0x6000)] [(0x3000, 0x28), (0x3001, 0xEA)])
    0x3002 0x0000 [(1, 0x0041), (13, 0x6001)] [(0x6000, 0x41)] = true := by decide
/-- V1.26 -/
theorem test_stbInd : shows (start 0x3000 0x0000 [(1, 0x0077), (2, 0x4000)] [(0x3000, 0x28), (0x3001, 0x93), (0x4000, 0x50), (0x4001, 0x10)])
    0x3002 0x0000 [(1, 0x0077), (2, 0x4000)] [(0x5010, 0x77)] = true := by decide
/-- V1.20 -/
theorem test_stwReg_a : shows (start 0x3000 0x0000 [(1, 0x1234), (2, 0x4000)] [(0x3000, 0x30), (0x3001, 0x90)])
    0x3002 0x0000 [(1, 0x1234), (2, 0x4000)] [(0x4000, 0x12), (0x4001, 0x34)] = true := by decide
/-- V1.21 -/
theorem test_stwReg_b : shows (start 0x3000 0x0000 [(1, 0x1234), (2, 0xFFFF)] [(0x3000, 0x30), (0x3001, 0x90)])
    0x3002 0x0000 [(1, 0x1234), (2, 0xFFFF)] [(0x0000, 0x34), (0xFFFF, 0x12)] = true := by decide
/-- V1.23 -/
theorem test_stwBase : shows (start 0x3000 0x0000 [(1, 0xBEEF), (2, 0x0006), (14, 0x4000)] [(0x3000, 0x30), (0x3001, 0x91)])
    0x3002 0x0000 [(1, 0xBEEF), (2, 0x0006), (14, 0x4000)] [(0x4006, 0xBE), (0x4007, 0xEF)] = true := by decide
/-- V1.25 -/
theorem test_stwIdx_a : shows (start 0x3000 0x0000 [(1, 0xCAFE), (13, 0x6000)] [(0x3000, 0x30), (0x3001, 0xEA)])
    0x3002 0x0000 [(1, 0xCAFE), (13, 0x6002)] [(0x6000, 0xCA), (0x6001, 0xFE)] = true := by decide
/-- V1.37 -/
theorem test_stwIdx_b : shows (start 0x3000 0x0000 [(13, 0x6000)] [(0x3000, 0x36), (0x3001, 0xEA)])
    0x3002 0x0000 [(13, 0x6002)] [(0x6000, 0x60), (0x6001, 0x00)] = true := by decide
/-- V1.27 -/
theorem test_stwInd_a : shows (start 0x3000 0x0000 [(1, 0x1234), (2, 0x4000)] [(0x3000, 0x30), (0x3001, 0x93), (0x4000, 0x50), (0x4001, 0x10)])
    0x3002 0x0000 [(1, 0x1234), (2, 0x4000)] [(0x5010, 0x12), (0x5011, 0x34)] = true := by decide
/-- V1.28 -/
theorem test_stwInd_b : shows (start 0x3000 0x0000 [(1, 0x1234), (2, 0x4000)] [(0x3000, 0x30), (0x3001, 0x93), (0x4000, 0x40), (0x4001, 0x00)])
    0x3002 0x0000 [(1, 0x1234), (2, 0x4000)] [(0x4000, 0x12), (0x4001, 0x34)] = true := by decide
/-- V1.30 -/
theorem test_pushb : shows (start 0x3000 0x0000 [(1, 0x1234), (15, 0x0000)] [(0x3000, 0x38), (0x3001, 0x80)])
    0x3002 0x0000 [(1, 0x1234), (15, 0xFFFF)] [(0xFFFF, 0x34)] = true := by decide
/-- V1.31 -/
theorem test_popb_a : shows (start 0x3000 0x0000 [(1, 0xAA00), (15, 0xFFEF)] [(0x3000, 0x38), (0x3001, 0x81), (0xFFEF, 0x34)])
    0x3002 0x0000 [(1, 0xAA34), (15, 0xFFF0)] [] = true := by decide
/-- V1.38 -/
theorem test_popb_b : shows (start 0x3000 0x0000 [(15, 0x40FF)] [(0x3000, 0x3F), (0x3001, 0x81), (0x40FF, 0x34)])
    0x3002 0x0000 [(15, 0x4134)] [] = true := by decide
/-- V1.33 -/
theorem test_pushw_a : shows (start 0x3000 0x0000 [(1, 0x1234), (15, 0x0001)] [(0x3000, 0x38), (0x3001, 0x82)])
    0x3002 0x0000 [(1, 0x1234), (15, 0xFFFF)] [(0x0000, 0x34), (0xFFFF, 0x12)] = true := by decide
/-- V1.40 -/
theorem test_pushw_b : shows (start 0x3000 0x0000 [(15, 0x4000)] [(0x3000, 0x3F), (0x3001, 0x82)])
    0x3002 0x0000 [(15, 0x3FFE)] [(0x3FFE, 0x40), (0x3FFF, 0x00)] = true := by decide
/-- V1.34 -/
theorem test_popw_a : shows (start 0x3000 0x0000 [(15, 0xFFEE)] [(0x3000, 0x38), (0x3001, 0x83), (0xFFEE, 0x12), (0xFFEF, 0x34)])
    0x3002 0x0000 [(1, 0x1234), (15, 0xFFF0)] [] = true := by decide
/-- V1.39 -/
theorem test_popw_b : shows (start 0x3000 0x0000 [(15, 0x4000)] [(0x3000, 0x3F), (0x3001, 0x83), (0x4000, 0x12), (0x4001, 0x34)])
    0x3002 0x0000 [(15, 0x1234)] [] = true := by decide
/-- V2.2 -/
theorem test_add_a : shows (start 0x3000 0x00A5 [(1, 0x7FFF), (2, 0x0001)] [(0x3000, 0x48), (0x3001, 0x90)])
    0x3002 0x90A5 [(1, 0x8000), (2, 0x0001)] [] = true := by decide
/-- V2.4 -/
theorem test_add_b : shows (start 0x3000 0x00A5 [(1, 0x8000), (2, 0x8000)] [(0x3000, 0x48), (0x3001, 0x90)])
    0x3002 0x70A5 [(1, 0x0000), (2, 0x8000)] [] = true := by decide
/-- V2.9 -/
theorem test_sub_a : shows (start 0x3000 0x00A5 [(1, 0x0003), (2, 0x0005)] [(0x3000, 0x48), (0x3001, 0x91)])
    0x3002 0x80A5 [(1, 0xFFFE), (2, 0x0005)] [] = true := by decide
/-- V2.12 -/
theorem test_sub_b : shows (start 0x3000 0x00A5 [(1, 0x7FFF), (2, 0xFFFF)] [(0x3000, 0x48), (0x3001, 0x91)])
    0x3002 0x90A5 [(1, 0x8000), (2, 0xFFFF)] [] = true := by decide
/-- V2.16 -/
theorem test_mul_a : shows (start 0x3000 0x00A5 [(1, 0xFFFF), (2, 0x0002)] [(0x3000, 0x48), (0x3001, 0x92)])
    0x3002 0x80A5 [(1, 0xFFFF), (2, 0x0002), (8, 0xFFFF), (9, 0xFFFE)] [] = true := by decide
/-- V2.23 -/
theorem test_mul_b : shows (start 0x3000 0x00A5 [(8, 0x0003), (9, 0x0005)] [(0x3000, 0x4C), (0x3001, 0x4A)])
    0x3002 0x00A5 [(8, 0x0000), (9, 0x000F)] [] = true := by decide
/-- V2.25 -/
theorem test_div_a : shows (start 0x3000 0x00A5 [(1, 0xFFF9), (2, 0x0002)] [(0x3000, 0x48), (0x3001, 0x93)])
    0x3002 0x80A5 [(1, 0xFFF9), (2, 0x0002), (8, 0xFFFD), (9, 0xFFFF)] [] = true := by decide
/-- V2.32 -/
theorem test_div_b : shows (start 0x3000 0x00A5 [(1, 0x8000), (2, 0xFFFF)] [(0x3000, 0x48), (0x3001, 0x93)])
    0x3002 0x90A5 [(1, 0x8000), (2, 0xFFFF), (8, 0x8000), (9, 0x0000)] [] = true := by decide
/-- V2.37 -/
theorem test_bitAnd : shows (start 0x3000 0x00A5 [(1, 0xF0F0), (2, 0xFF00)] [(0x3000, 0x48), (0x3001, 0x94)])
    0x3002 0x80A5 [(1, 0xF000), (2, 0xFF00)] [] = true := by decide
/-- V2.40 -/
theorem test_bitOr : shows (start 0x3000 0x00A5 [(1, 0x8000), (2, 0x0001)] [(0x3000, 0x48), (0x3001, 0x95)])
    0x3002 0x80A5 [(1, 0x8001), (2, 0x0001)] [] = true := by decide
/-- V2.42 -/
theorem test_bitXor : shows (start 0x3000 0x00A5 [(1, 0xAAAA), (2, 0x5555)] [(0x3000, 0x48), (0x3001, 0x96)])
    0x3002 0x80A5 [(1, 0xFFFF), (2, 0x5555)] [] = true := by decide
/-- V2.46 -/
theorem test_bitNot : shows (start 0x3000 0x00A5 [(1, 0x00FF)] [(0x3000, 0x48), (0x3001, 0x87)])
    0x3002 0x80A5 [(1, 0xFF00)] [] = true := by decide
/-- V2.50 -/
theorem test_shl_a : shows (start 0x3000 0x00A5 [(2, 0xC001)] [(0x3000, 0x40), (0x3001, 0x90)])
    0x3002 0xA0A5 [(1, 0x8002), (2, 0xC001)] [] = true := by decide
/-- V2.56 -/
theorem test_shl_b : shows (start 0x3000 0x00A5 [(1, 0x8001)] [(0x3000, 0x40), (0x3001, 0x88)])
    0x3002 0x20A5 [(1, 0x0002)] [] = true := by decide
/-- V2.52 -/
theorem test_shr_a : shows (start 0x3000 0x00A5 [(2, 0x0001)] [(0x3000, 0x50), (0x3001, 0x90)])
    0x3002 0x60A5 [(1, 0x0000), (2, 0x0001)] [] = true := by decide
/-- V2.55 -/
theorem test_shr_b : shows (start 0x3000 0x00A5 [(2, 0xC001)] [(0x3000, 0x50), (0x3001, 0x90)])
    0x3002 0x20A5 [(1, 0x6000), (2, 0xC001)] [] = true := by decide
/-- V3.2 -/
theorem test_brImm_a : shows (start 0x3000 0x0000 [] [(0x3000, 0x87), (0x3001, 0xFE)])
    0x3000 0x0000 [] [] = true := by decide
/-- V3.3 -/
theorem test_brImm_b : shows (start 0x0100 0x0000 [] [(0x0100, 0x84), (0x0101, 0x00)])
    0xFD02 0x0000 [] [] = true := by decide
/-- V3.4 -/
theorem test_brReg : shows (start 0x3000 0x0000 [(3, 0x4000)] [(0x3000, 0x89), (0x3001, 0x80)])
    0x4000 0x0000 [(3, 0x4000)] [] = true := by decide
/-- V3.7 -/
theorem test_brnImm : shows (start 0x3000 0x8000 [] [(0x3000, 0x94), (0x3001, 0x00)])
    0x2F02 0x8000 [] [] = true := by decide
/-- V3.5 -/
theorem test_brzImm_a : shows (start 0x3000 0x4000 [] [(0x3000, 0x90), (0x3001, 0x19)])
    0x3008 0x4000 [] [] = true := by decide
/-- V3.6 -/
theorem test_brzImm_b : shows (start 0x3000 0xB000 [] [(0x3000, 0x90), (0x3001, 0x19)])
    0x3002 0xB000 [] [] = true := by decide
/-- V3.8 -/
theorem test_brcImm : shows (start 0x3000 0x2000 [] [(0x3000, 0x97), (0x3001, 0xF2)])
    0x2FFE 0x2000 [] [] = true := by decide
/-- V3.9 -/
theorem test_broImm : shows (start 0x3000 0x1000 [] [(0x3000, 0x93), (0x3001, 0xFF)])
    0x3101 0x1000 [] [] = true := by decide
/-- R184, R190 -/
theorem test_brnReg : shows (start 0x3000 0x8000 [(3, 0x4000)] [(0x3000, 0x99), (0x3001, 0x80)])
    0x4000 0x8000 [(3, 0x4000)] [] = true := by decide
/-- V3.10 -/
theorem test_brzReg_a : shows (start 0x3000 0x4000 [(3, 0x4000)] [(0x3000, 0x99), (0x3001, 0x81)])
    0x4000 0x4000 [(3, 0x4000)] [] = true := by decide
/-- V3.11 -/
theorem test_brzReg_b : shows (start 0x3000 0x0000 [(3, 0x4000)] [(0x3000, 0x99), (0x3001, 0x81)])
    0x3002 0x0000 [(3, 0x4000)] [] = true := by decide
/-- R184, R190 -/
theorem test_brcReg : shows (start 0x3000 0x2000 [(5, 0x4001)] [(0x3000, 0x9A), (0x3001, 0x82)])
    0x4001 0x2000 [(5, 0x4001)] [] = true := by decide
/-- R184, R190, not taken -/
theorem test_broReg : shows (start 0x3000 0xE000 [(5, 0x4001)] [(0x3000, 0x9A), (0x3001, 0x83)])
    0x3002 0xE000 [(5, 0x4001)] [] = true := by decide
/-- V3.12 -/
theorem test_jsr : shows (start 0x3000 0x0000 [(3, 0x3100), (15, 0xFFF0)] [(0x3000, 0xA1), (0x3001, 0x80)])
    0x3100 0x0000 [(3, 0x3100), (15, 0xFFEE)] [(0xFFEE, 0x30), (0xFFEF, 0x02)] = true := by decide
/-- R186, not taken -/
theorem test_jsrn : shows (start 0x3000 0x7000 [(3, 0x3100), (15, 0xFFF0)] [(0x3000, 0xA9), (0x3001, 0x80)])
    0x3002 0x7000 [(3, 0x3100), (15, 0xFFF0)] [] = true := by decide
/-- V3.13 -/
theorem test_jsrz_a : shows (start 0x3000 0x4000 [(3, 0x3100), (15, 0xFFF0)] [(0x3000, 0xA9), (0x3001, 0x81)])
    0x3100 0x4000 [(3, 0x3100), (15, 0xFFEE)] [(0xFFEE, 0x30), (0xFFEF, 0x02)] = true := by decide
/-- V3.14 -/
theorem test_jsrz_b : shows (start 0x3000 0x0000 [(3, 0x3100), (15, 0xFFF0)] [(0x3000, 0xA9), (0x3001, 0x81)])
    0x3002 0x0000 [(3, 0x3100), (15, 0xFFF0)] [] = true := by decide
/-- R186 -/
theorem test_jsrc : shows (start 0x3000 0x2000 [(3, 0x3100), (15, 0xFFF0)] [(0x3000, 0xA9), (0x3001, 0x82)])
    0x3100 0x2000 [(3, 0x3100), (15, 0xFFEE)] [(0xFFEE, 0x30), (0xFFEF, 0x02)] = true := by decide
/-- R186 -/
theorem test_jsro : shows (start 0x3000 0x1000 [(10, 0x3100), (15, 0xFFF0)] [(0x3000, 0xAD), (0x3001, 0x03)])
    0x3100 0x1000 [(10, 0x3100), (15, 0xFFEE)] [(0xFFEE, 0x30), (0xFFEF, 0x02)] = true := by decide
/-- V3.15 -/
theorem test_trap_a : shows (start 0x3000 0xA005 [(15, 0xFFF0)] [(0x3000, 0xB0), (0x3001, 0x80)])
    0x2104 0xA005 [(15, 0xFFEC)] [(0xFFEC, 0xA0), (0xFFED, 0x05), (0xFFEE, 0x30), (0xFFEF, 0x02)] = true := by decide
/-- V3.17 -/
theorem test_trap_b : shows (start 0x3000 0x0000 [(15, 0xFFF0)] [(0x3000, 0xB7), (0x3001, 0xC0)])
    0x20FE 0x0000 [(15, 0xFFEC)] [] = true := by decide
/-- V3.18 -/
theorem test_ret : shows (start 0x3100 0x0000 [(15, 0xFFEE)] [(0x3100, 0xB8), (0x3101, 0x00), (0xFFEE, 0x30), (0xFFEF, 0x02)])
    0x3002 0x0000 [(15, 0xFFF0)] [] = true := by decide
/-- V3.19 -/
theorem test_reti_a : shows (start 0x2104 0x0000 [(15, 0xFFEC)] [(0x2104, 0xB8), (0x2105, 0x01), (0xFFEC, 0xA0), (0xFFED, 0x05), (0xFFEE, 0x30), (0xFFEF, 0x02)])
    0x3002 0xA005 [(15, 0xFFF0)] [] = true := by decide
/-- V3.20 -/
theorem test_reti_b : shows (start 0x2104 0x0000 [(15, 0xFFEC)] [(0x2104, 0xB8), (0x2105, 0x01), (0xFFEC, 0xAF), (0xFFED, 0x05), (0xFFEE, 0x30), (0xFFEF, 0x02)])
    0x3002 0xA005 [(15, 0xFFF0)] [] = true := by decide
/-- V5.1 -/
theorem test_ei : shows (start 0x3000 0x4080 [] [(0x3000, 0xC8), (0x3001, 0x28)])
    0x3002 0x4085 [] [] = true := by decide
/-- V5.3 -/
theorem test_di : shows (start 0x3000 0x4085 [] [(0x3000, 0xCF), (0x3001, 0xD9)])
    0x3002 0x4081 [] [] = true := by decide
/-- V5.6 -/
theorem test_nop : shows (start 0x3000 0x0000 [] [(0x3000, 0xD8), (0x3001, 0x00)])
    0x3002 0x0000 [] [] = true := by decide

/-- V2.33 -/
theorem test_div_by_zero :
    step (start 0x3000 0x00A5 [(1, 0x0005), (2, 0x0000)] [(0x3000, 0x48), (0x3001, 0x93)]) =
      .fault (.divideByZero 0x3000#16) := rfl
/-- V6: the all-zero word. -/
theorem test_reserved_encoding :
    step (start 0x3000 0x0000 [] [(0x3000, 0x00), (0x3001, 0x00)]) = .fault (.reservedEncoding 0x0000#16 0x3000#16) := rfl

/-- V4.1: IN with a scripted answer. -/
theorem test_portIn :
    shows { start 0x3000 0x4000 [(1, 0x1200)] [(0x3000, 0xC0), (0x3001, 0xF0)] with portFeed := [0x01#8] }
      0x3002 0x4000 [(1, 0x1201)] [] = true := by decide
/-- V4.3: OUT delivers the low byte. -/
theorem test_portOut :
    exec (.portOut 0 0x32) (start 0x3002 0x0000 [(0, 0xFF41)] []) =
      .next { start 0x3002 0x0000 [(0, 0xFF41)] [] with events := [.write 0x32 0x41#8] } := rfl
/-- V5.5 -/
theorem test_halt :
    exec .halt (start 0x3012 0x0000 [] []) = .next { start 0x3012 0x0000 [] [] with rb := false } := rfl
/-- V5.7 -/
theorem test_ldos :
    exec (.ldos 0x100#11) (start 0x2002 0x0000 [] []) =
      .next { start 0x2002 0x0000 [] [] with osb := 0x2102#16, osbLoaded := true } := rfl
/-- V5.8 -/
theorem test_ldro :
    exec (.ldro 0x7FC#11) (start 0x3002 0x0000 [] []) =
      .next { start 0x3002 0x0000 [] [] with txb := 0x2FFE#16, txbLoaded := true } := rfl

/-! ## Interrupts -/

/-- A machine at `pc` = 0x3004 with SP = 0xFFF0 and these lines requesting. -/
def requested (sw : Word) (lines : BitVec 8) : State := { start 0x3004 sw [(15, 0xFFF0)] [] with irqLines := lines }

/-- V7.1 -/
theorem test_interrupt_entry :
    shows (requested 0x6084 0x80#8) 0x2114 0x6084 [(15, 0xFFEC)]
      [(0xFFEC, 0x60), (0xFFED, 0x84), (0xFFEE, 0x30), (0xFFEF, 0x04)] = true := by decide
/-- V7.2 -/
theorem test_interrupt_lowest_line : shows (requested 0x00FF 0x84#8) 0x2104 0x00FF [(15, 0xFFEC)] [] = true := by decide
/-- V7.4 -/
theorem test_interrupt_masked : (requested 0x0001 0x80#8).pendingLine = none := by decide
/-- V7.5 -/
theorem test_interrupt_line_5 : shows (requested 0x00FF 0x20#8) 0x2110 0x00FF [(15, 0xFFEC)] [] = true := by decide
/-- V7.6 -/
theorem test_interrupt_halted : step { requested 0x00FF 0xFF#8 with rb := false } = .refused .halted := rfl

/-! ## The spec's worked frames and the fetch placement -/

/-- `withFetchWord` puts LDA's two words where the step after reset fetches them. -/
theorem test_withFetchWord_lda :
    shows (State.reset.withFetchWord 32 0xABCD1780) 0x0004 0x0000 [(15, 0xABCD)] [] = true := by decide

/-! ## Witnesses: the hypotheses of each obligation can be met -/

/-- NOP at 0x3000, nothing enabled. -/
def nopState : State := start 0x3000 0x0000 [] [(0x3000, 0xD8), (0x3001, 0x00), (0x3002, 0x00), (0x3003, 0x00)]

/-- HALT at 0x3000, nothing enabled. -/
def haltState : State := start 0x3000 0x0000 [] [(0x3000, 0xD0), (0x3001, 0x00), (0x3002, 0x00), (0x3003, 0x00)]

theorem witness_DecodeOfEncodeGivesTheInstruction :
    (Instr.portIn 15 63).WellFormed = true ∧ (Instr.lda 0 0xFFFF#16).WellFormed = true := by decide
theorem witness_EncodeOfDecodeGivesTheBytes :
    decode [0xC7#8, 0xFF#8, 0xAA#8] = .ok (.portOut 15 63, [0xAA#8]) := by decide
theorem witness_DecoderAcceptsExactlyTheTable :
    decodeWord true 0x0800#16 0#16 = .ok (.ldi 0 0#7) ∧
    (∃ row ∈ opcodeRows, row.accepts 0xEFFF#16 = true) := by decide
theorem witness_OpcodeTellsTheLength_one_word : decode [0xD8#8, 0x00#8] = .ok (.nop, []) := by decide
theorem witness_OpcodeTellsTheLength_two_words :
    decode [0x17#8, 0x80#8, 0xFF#8, 0xFE#8] = .ok (.lda 15 0xFFFE#16, []) := by decide
theorem witness_LaxDecodingIgnoresReservedBits :
    decodeWord true 0xD800#16 0#16 = .ok .nop ∧
    decodeWord true 0xD801#16 0#16 = .error (.nonzeroReservedBits 0b11011#5) ∧
    decodeWord true 0x0000#16 0#16 = .error (.unassignedOpcode 0#5) := by decide
/-- R97 field by field: a word with every must-be-zero bit at 1 decodes laxly as the word with them at 0. -/
theorem test_lax_decoding_clears_the_printed_zeros :
    decodeWord false 0b00010_1111_1111111#16 0xFFFF#16 = .ok (.lda 15 0xFFFF#16) ∧
    decodeWord false 0b00111_1111_1111_010#16 0#16 = .ok (.pushw 15) ∧
    decodeWord false 0b01001_1111_1111_111#16 0#16 = .ok (.bitNot 15) ∧
    decodeWord false 0b10011_1111_11111_10#16 0#16 = .ok (.brcReg 15) ∧
    decodeWord false 0b10110_100000_11111#16 0#16 = .ok (.trap 0b100000#6) ∧
    decodeWord false 0b10111_1111111111_1#16 0#16 = .ok .reti ∧
    decodeWord false 0b11010_11111111111#16 0#16 = .ok .halt := by decide
theorem witness_StepRunsTheDecodedInstruction :
    nopState.fetches ∧
    decode [nopState.readByte nopState.pc, nopState.readByte (nopState.pc + 1), nopState.readByte (nopState.pc + 2),
      nopState.readByte (nopState.pc + 3)] = .ok (.nop, [0x00#8, 0x00#8]) := by
  unfold State.fetches; decide
theorem witness_FaultsAreReservedEncodingAndDivideByZero_reserved :
    (start 0x3000 0x0000 [] [(0x3000, 0x00), (0x3001, 0x00)]).fetches ∧
    ∀ row ∈ opcodeRows, row.accepts ((start 0x3000 0x0000 [] [(0x3000, 0x00), (0x3001, 0x00)]).readWord 0x3000#16) = false := by
  unfold State.fetches; decide
theorem witness_FaultsAreReservedEncodingAndDivideByZero_division :
    (start 0x3000 0x0000 [(2, 0x0000)] [(0x3000, 0x48), (0x3001, 0x93)]).fetches ∧
    (start 0x3000 0x0000 [(2, 0x0000)] [(0x3000, 0x48), (0x3001, 0x93)]).fetchInstr = .ok (.div 1 2) ∧
    (start 0x3000 0x0000 [(2, 0x0000)] [(0x3000, 0x48), (0x3001, 0x93)]).reg 2 = 0#16 := by
  unfold State.fetches; decide
/-- For every word some state fetches it: the hypotheses of every `FaultsAsReserved` clause. -/
theorem witness_FaultsAsReserved (w : Word) :
    (start 0x3000 0x0000 [] [(0x3000, hob w), (0x3001, lob w)]).fetches ∧
    (start 0x3000 0x0000 [] [(0x3000, hob w), (0x3001, lob w)]).readWord
      (start 0x3000 0x0000 [] [(0x3000, hob w), (0x3001, lob w)]).pc = w := by
  refine ⟨⟨rfl, by simp [State.pendingLine, State.irqEnables, start, State.launch, State.reset]⟩, ?_⟩
  have h : (start 0x3000 0x0000 [] [(0x3000, hob w), (0x3001, lob w)]).readWord 0x3000#16 = wordOfBytes (hob w) (lob w) := rfl
  exact h.trans (wordOfBytes_hob_lob w)
theorem witness_HaltedMachineHasNoStep : ({ haltState with rb := false } : State).rb = false := rfl
theorem witness_EveryInstructionCompletes_div_by_zero :
    exec (.div 1 2) (start 0x3002 0x0000 [(2, 0x0000)] []) = .fault (.divideByZero 0x3000#16) := rfl
theorem witness_StepKeepsTheInvariant : nopState.Inv ∧ ∃ t, step nopState = .next t := ⟨by decide, _, rfl⟩
theorem witness_StepKeepsTheInvariant_interrupt :
    (requested 0x00FF 0x84#8).Inv ∧ ∃ t, step (requested 0x00FF 0x84#8) = .next t := ⟨by decide, _, rfl⟩
theorem witness_EveryInstructionKeepsItsFrame :
    (∃ t, exec (.trap 0x20#6) nopState = .next t) ∧ ∃ t, exec (.stwIdx 13) nopState = .next t := ⟨⟨_, rfl⟩, _, rfl⟩
theorem witness_OnlyHaltClearsTheRunBit :
    (∃ t, step haltState = .next t ∧ t.rb = false) ∧ ∃ t, step nopState = .next t ∧ t.rb = true :=
  ⟨⟨_, rfl, rfl⟩, _, rfl, rfl⟩
theorem witness_OnlyLdosAndLdroWriteTheBoundaries :
    (∃ t, step (start 0x3000 0x0000 [] [(0x3000, 0xE1), (0x3001, 0x00)]) = .next t ∧ t.osb = 0x3102#16) ∧
    ∃ t, step (start 0x3000 0x0000 [] [(0x3000, 0xEF), (0x3001, 0xFC)]) = .next t ∧ t.txb = 0x2FFE#16 :=
  ⟨⟨_, rfl, by decide⟩, _, rfl, by decide⟩
theorem witness_WritersOfTheStatusWord :
    (∃ t, exec (.add 1 2) nopState = .next t) ∧ (∃ t, exec (.ei 0xFF#8) nopState = .next t) ∧
    (∃ t, exec .reti nopState = .next t) ∧ (∃ t, exec (.ldi 0 0#7) nopState = .next t) ∧
    (requested 0x00FF 0x80#8).pendingLine = some 7 ∧ ∃ t, step (requested 0x00FF 0x80#8) = .next t :=
  ⟨⟨_, rfl⟩, ⟨_, rfl⟩, ⟨_, rfl⟩, ⟨_, rfl⟩, by decide, _, rfl⟩
theorem witness_ReservedStatusBitsStayZero :
    nopState.sw.extractLsb' 8 4 = 0#4 ∧ (∃ t, step nopState = .next t) ∧ (∃ t, exec .reti nopState = .next t) ∧
    (∃ t, exec (.trap 0x1F#6) nopState = .next t) ∧ (requested 0x0001 0x01#8).pendingLine = some 0 :=
  ⟨by decide, ⟨_, rfl⟩, ⟨_, rfl⟩, ⟨_, rfl⟩, by decide⟩
theorem witness_ProgramCounterChangesOnlyWhereStated :
    (∃ t, exec (.lda 0 0#16) nopState = .next t) ∧ (∃ t, exec (.brImm 0x400#11) nopState = .next t) ∧
    (∃ t, exec (.jsr 15) nopState = .next t) ∧ (∃ t, exec (.trap 0x20#6) nopState = .next t) ∧
    (∃ t, exec .ret nopState = .next t) ∧ (∃ t, exec .reti nopState = .next t) ∧
    Part.pc ∉ changedParts .nop ∧ (∃ t, exec .nop nopState = .next t) ∧
    (requested 0x00FF 0x80#8).pendingLine = some 7 ∧ ∃ t, step (requested 0x00FF 0x80#8) = .next t :=
  ⟨⟨_, rfl⟩, ⟨_, rfl⟩, ⟨_, rfl⟩, ⟨_, rfl⟩, ⟨_, rfl⟩, ⟨_, rfl⟩, by decide, ⟨_, rfl⟩, by decide, _, rfl⟩
/-- Each conditional form of the same statement runs, whatever its flag. -/
theorem witness_ProgramCounterChangesOnlyWhereStated_conditional (s : State) :
    ∀ i ∈ [Instr.brnImm 0x100#9, .brzImm 0x0FF#9, .brcImm 0#9, .broImm 0x1FF#9, .brnReg 15, .brzReg 0, .brcReg 15,
      .broReg 0, .jsrn 15, .jsrz 0, .jsrc 15, .jsro 0], ∃ t, exec i s = .next t := by
  simp [exec, execBrnImm, execBrzImm, execBrcImm, execBroImm, execBrnReg, execBrzReg, execBrcReg, execBroReg, execJsrn,
    execJsrz, execJsrc, execJsro]
theorem witness_UnreadStateNeverMatters :
    ({ nopState with osb := 0x1234#16, ir := 0xFFFF#16, aluR := 1#32 } : State).withoutUnread = nopState.withoutUnread := rfl
theorem witness_ByteReadsSeeTheLatestStore : ∀ c ∈ nopState.mem, c.1 ≠ (0xFFFF#16).toNat := by decide
theorem witness_WordAndByteAccessesAgree : (0x0001#16) ≠ 0xFFFF#16 ∧ (0x0001#16) ≠ 0xFFFF#16 + 1 := by decide
theorem witness_StoreIsSeenByTheNextFetch :
    (∃ t, exec (.stwReg 1 2) (start 0x3002 0x0000 [(2, 0x3002)] []) = .next t) ∧
    storedBytes (.stwReg 1 2) (start 0x3002 0x0000 [(2, 0x3002)] []) =
      wordBytes (start 0x3002 0x0000 [(2, 0x3002)] []).pc := ⟨⟨_, rfl⟩, by decide⟩
/-- STW $R1& stores the operand word of the LDA $R3 that follows it, across the end of memory. -/
theorem witness_StoreIsSeenByTheNextFetch_operand :
    (∃ t, exec (.stwIdx 1) (start 0xFFFD 0x0000 [(1, 0xABCD), (13, 0xFFFF)] [(0xFFFD, 0x11), (0xFFFE, 0x80)]) = .next t ∧
      t.fetchInstr = .ok (.lda 3 0xABCD#16)) ∧
    storedBytes (.stwIdx 1) (start 0xFFFD 0x0000 [(1, 0xABCD), (13, 0xFFFF)] [(0xFFFD, 0x11), (0xFFFE, 0x80)]) =
      wordBytes (0xFFFD#16 + 2) ∧
    (start 0xFFFD 0x0000 [(1, 0xABCD), (13, 0xFFFF)] [(0xFFFD, 0x11), (0xFFFE, 0x80)]).readWord 0xFFFD#16 =
      0b00010#5 ++ fieldOfReg 3 ++ 0b0000000#7 := ⟨⟨_, rfl, by decide⟩, by decide, by decide⟩
/-- A wrong index field, a wrong zero field. -/
theorem witness_ByteLoads : (12 : Reg) = 12 ∧ (11 : Reg) ≠ 12 ∧ (0b1101#4) ≠ 0b1100#4 ∧ (0b1000#4) ≠ 0#4 := by decide
theorem witness_Pops : (15 : Reg) = 15 ∧ (14 : Reg) ≠ 15 := by decide
theorem witness_PopReturnsThePushedWord : (15 : Reg) ≠ 14 := by decide
theorem witness_WordTransfersAreTheirByteSteps : (14 : Reg) ≠ 15 ∧ (13 : Reg) ≠ 12 := by decide
theorem witness_DivResultAndFlags :
    (start 0x3002 0 [(1, 0x8000), (2, 0xFFFF)] []).reg 2 ≠ 0#16 ∧ (start 0x3002 0 [(2, 0x0000)] []).reg 2 = 0#16 := by
  decide
theorem witness_LogicResultsAndFlags : (15 : Nat) < 16 := by decide
theorem witness_AluLatchesHoldOperandsAndResult :
    (∃ t, exec (.shr 1 2) nopState = .next t) ∧ ∃ t, exec (.div 1 2) (start 0x3002 0 [(2, 0x0001)] []) = .next t :=
  ⟨⟨_, rfl⟩, _, rfl⟩
theorem witness_ReturnsUndoTheirEntries : nopState.sw.extractLsb' 8 4 = 0#4 := by decide
theorem witness_InterruptEntersTheLowestEnabledLine :
    (requested 0x00FF 0x84#8).rb = true ∧ (requested 0x00FF 0x84#8).sw.getLsbD 2 = true ∧
    (requested 0x00FF 0x84#8).irqLines.getLsbD 2 = true ∧
    ∀ m : Fin 8, m < 2 → ¬((requested 0x00FF 0x84#8).sw.getLsbD m.val = true ∧
      (requested 0x00FF 0x84#8).irqLines.getLsbD m.val = true) := by decide
theorem witness_InterruptsAreOffExactlyWhenAllDisabled : nopState.sw.extractLsb' 0 8 = 0#8 := by decide
theorem witness_HeldLineIsTakenAgain :
    (requested 0x0080 0x80#8).rb = true ∧ (requested 0x0080 0x80#8).pendingLine = some 7 ∧
    ({ requested 0x0080 0x80#8 with irqFeed := [0xFF#8] } : State).irqFeed = 0xFF#8 :: [] ∧
    (requested 0x0080 0xFF#8).pendingLine = some 7 := by decide
theorem witness_RetiResumesTheInterruptedProgram :
    (requested 0xF001 0x01#8).rb = true ∧ (requested 0xF001 0x01#8).pendingLine = some 0 ∧
    (requested 0xF001 0x01#8).sw.extractLsb' 8 4 = 0#4 := by decide
theorem witness_PortInput : ({ nopState with portFeed := [0xFF#8] } : State).portFeed = 0xFF#8 :: [] := rfl
theorem witness_DevicePortBlocks :
    portRegister 0x00 = some (.pit0, .counter) ∧ portRegister 0x3B = some (.kbd, .data1) := by decide
theorem witness_InterruptEnableAndDisable : (15 : Nat) < 16 := by decide

end Sys2Proof.Tests
end

/-! PROOF. The frame of every instruction. A frame (`State.Keeps`) composes and widens, so each operation of the model
gets its frame once, from the frames of the operations it is written over, and the frame of an instruction is the
frame of the operation its meaning calls. -/

namespace Sys2Proof.Machine

/-! ## Frames compose -/

theorem State.agree_refl (s : State) (p : Part) : s.agree s p := by
  cases p <;> simp [State.agree]

theorem State.agree_trans {s t u : State} {p : Part} (hst : s.agree t p) (htu : t.agree u p) : s.agree u p := by
  cases p <;> simp_all [State.agree]

theorem State.Keeps.refl (s : State) : s.Keeps s [] [] [] where
  regs _ _ := rfl
  memory _ _ := rfl
  parts p _ := s.agree_refl p

/-- Two updates after one another change what either of them changes. -/
theorem State.Keeps.trans {s t u : State} {rs rs' : List Reg} {bs bs' : List Word} {ps ps' : List Part}
    (hst : s.Keeps t rs bs ps) (htu : t.Keeps u rs' bs' ps') : s.Keeps u (rs ++ rs') (bs ++ bs') (ps ++ ps') where
  regs r hr := by
    rw [List.mem_append, not_or] at hr
    exact (htu.regs r hr.2).trans (hst.regs r hr.1)
  memory a ha := by
    rw [List.mem_append, not_or] at ha
    exact (htu.memory a ha.2).trans (hst.memory a ha.1)
  parts p hp := by
    rw [List.mem_append, not_or] at hp
    exact State.agree_trans (hst.parts p hp.1) (htu.parts p hp.2)

/-- A frame may name more than what changes. -/
theorem State.Keeps.mono {s t : State} {rs rs' : List Reg} {bs bs' : List Word} {ps ps' : List Part}
    (h : s.Keeps t rs bs ps) (hr : rs ⊆ rs') (hb : bs ⊆ bs') (hp : ps ⊆ ps') : s.Keeps t rs' bs' ps' where
  regs r hr' := h.regs r (mt (@hr r) hr')
  memory a ha := h.memory a (mt (@hb a) ha)
  parts p hp' := h.parts p (mt (@hp p) hp')

/-- An update of parts only is framed by those parts. -/
theorem State.Keeps.of_parts {s t : State} {ps : List Part} (hr : t.regs = s.regs) (hm : t.mem = s.mem)
    (hp : ∀ p, p ∉ ps → s.agree t p) : s.Keeps t [] [] ps where
  regs r _ := by rw [State.reg, State.reg, hr]
  memory a _ := by rw [State.readByte, State.readByte, hm]
  parts := hp

/-! ## The primitive updates -/

theorem State.keeps_setReg (s : State) (d : Reg) (v : Word) : s.Keeps (s.setReg d v) [d] [] [] where
  regs r hr := by simp_all
  memory a _ := s.setReg_readByte d v a
  parts p _ := by cases p <;> simp [State.agree]

theorem State.keeps_setLob (s : State) (d : Reg) (b : Byte) : s.Keeps (s.setLob d b) [d] [] [] :=
  s.keeps_setReg d _

theorem State.keeps_writeByte (s : State) (a : Word) (b : Byte) : s.Keeps (s.writeByte a b) [] [a] [] where
  regs r _ := s.writeByte_reg a b r
  memory k hk := by simp_all
  parts p _ := by cases p <;> simp [State.agree]

theorem State.keeps_setPc (s : State) (t : Word) : s.Keeps (s.setPc t) [] [] [.pc] :=
  .of_parts rfl rfl fun p hp => by cases p <;> simp_all [State.agree]

theorem State.keeps_setSw (s : State) (v : Word) : s.Keeps (s.setSw v) [] [] [.sw] :=
  .of_parts rfl rfl fun p hp => by cases p <;> simp_all [State.agree]

theorem State.keeps_setIrqEnables (s : State) (m : BitVec 8) : s.Keeps (s.setIrqEnables m) [] [] [.sw] :=
  .of_parts rfl rfl fun p hp => by cases p <;> simp_all [State.agree]

theorem State.keeps_setFlags (s : State) (f : Flags) : s.Keeps (s.setFlags f) [] [] [.sw] :=
  .of_parts rfl rfl fun p hp => by cases p <;> simp_all [State.agree]

theorem State.keeps_loadOsb (s : State) (v : Word) : s.Keeps (s.loadOsb v) [] [] [.osb] :=
  .of_parts rfl rfl fun p hp => by cases p <;> simp_all [State.agree]

theorem State.keeps_loadTxb (s : State) (v : Word) : s.Keeps (s.loadTxb v) [] [] [.txb] :=
  .of_parts rfl rfl fun p hp => by cases p <;> simp_all [State.agree]

theorem State.keeps_stopClock (s : State) : s.Keeps s.stopClock [] [] [.rb] :=
  .of_parts rfl rfl fun p hp => by cases p <;> simp_all [State.agree]

theorem State.keeps_latchAlu (s : State) (a b : Word) (r : BitVec 32) : s.Keeps (s.latchAlu a b r) [] [] [.latches] :=
  .of_parts rfl rfl fun p hp => by cases p <;> simp_all [State.agree]

theorem State.keeps_writePort (s : State) (port : Nat) (b : Byte) : s.Keeps (s.writePort port b) [] [] [.devices] :=
  .of_parts rfl rfl fun p hp => by cases p <;> simp_all [State.agree]

theorem State.keeps_afterPortRead (s : State) (port : Nat) : s.Keeps (s.afterPortRead port) [] [] [.devices] :=
  .of_parts rfl rfl fun p hp => by cases p <;> simp_all [State.agree]

theorem State.keeps_nextBoundary (s : State) : s.Keeps s.nextBoundary [] [] [.lines] :=
  .of_parts rfl rfl fun p hp => by cases p <;> simp_all [State.agree]

theorem State.keeps_fetched (s : State) : s.Keeps s.fetched [] [] [.ir, .pc] :=
  .of_parts rfl rfl fun p hp => by cases p <;> simp_all [State.agree]

/-! ## Memory and the stack -/

theorem State.keeps_writeWord (s : State) (a v : Word) : s.Keeps (s.writeWord a v) [] (wordBytes a) [] :=
  (s.keeps_writeByte a _).trans (State.keeps_writeByte _ (a + 1) _)

theorem State.keeps_pushByte (s : State) (b : Byte) : s.Keeps (s.pushByte b) [Reg.sp] [s.reg Reg.sp - 1] [] :=
  (s.keeps_setReg Reg.sp _).trans (State.keeps_writeByte _ _ b)

theorem State.keeps_pushWord (s : State) (v : Word) :
    s.Keeps (s.pushWord v) [Reg.sp] (wordBytes (s.reg Reg.sp - 2)) [] :=
  (s.keeps_setReg Reg.sp _).trans (State.keeps_writeWord _ _ v)

theorem State.keeps_dropBytes (s : State) (n : Word) : s.Keeps (s.dropBytes n) [Reg.sp] [] [] :=
  s.keeps_setReg Reg.sp _

/-! ## Loads and stores -/

/-- The register the pointer update of a mode writes: the index register in index mode (R111). -/
def Mode.bumped (m : Mode) (a : Reg) : List Reg :=
  match m with
  | .index => [a]
  | .register | .base | .indirect => []

theorem State.keeps_bump (s : State) (m : Mode) (a : Reg) (n : Word) : s.Keeps (s.bump m a n) (m.bumped a) [] [] := by
  cases m with
  | index => exact s.keeps_setReg a _
  | register | base | indirect => exact .refl s

theorem State.keeps_loadByte (s : State) (m : Mode) (d a : Reg) : s.Keeps (s.loadByte m d a) (d :: m.bumped a) [] [] :=
  ((s.keeps_bump m a 1).trans (State.keeps_setLob _ d _)).mono (by simp) (by simp) (by simp)

theorem State.keeps_loadWord (s : State) (m : Mode) (d a : Reg) : s.Keeps (s.loadWord m d a) (d :: m.bumped a) [] [] :=
  ((s.keeps_bump m a 2).trans (State.keeps_setReg _ d _)).mono (by simp) (by simp) (by simp)

theorem State.keeps_storeByte (s : State) (m : Mode) (r a : Reg) :
    s.Keeps (s.storeByte m r a) (m.bumped a) [s.ea m a] [] :=
  (s.keeps_writeByte (s.ea m a) _).trans (State.keeps_bump _ m a 1)

theorem State.keeps_storeWord (s : State) (m : Mode) (r a : Reg) :
    s.Keeps (s.storeWord m r a) (m.bumped a) (wordBytes (s.ea m a)) [] :=
  (s.keeps_writeWord (s.ea m a) _).trans (State.keeps_bump _ m a 2)

/-! ## The ALU -/

theorem State.keeps_writeAlu (s : State) (a b : Word) (d : Reg) (r : AluResult) :
    s.Keeps (s.writeAlu a b d r) [d] [] [.sw, .latches] :=
  (((s.keeps_latchAlu a b _).trans (State.keeps_setReg _ d _)).trans (State.keeps_setFlags _ _)).mono
    (by simp) (by simp) (by simp)

theorem State.keeps_aluTwo (s : State) (f : Word → Word → AluResult) (d r : Reg) :
    s.Keeps (s.aluTwo f d r) [d] [] [.sw, .latches] :=
  s.keeps_writeAlu _ _ d _

theorem State.keeps_aluOne (s : State) (f : Word → AluResult) (d : Reg) :
    s.Keeps (s.aluOne f d) [d] [] [.sw, .latches] :=
  s.keeps_writeAlu _ _ d _

theorem State.keeps_aluWide (s : State) (f : Word → Word → WideResult) (o1 o2 : Reg) :
    s.Keeps (s.aluWide f o1 o2) [Reg.r8, Reg.r9] [] [.sw, .latches] :=
  ((((s.keeps_latchAlu _ _ _).trans (State.keeps_setReg _ Reg.r8 _)).trans (State.keeps_setReg _ Reg.r9 _)).trans
    (State.keeps_setFlags _ _)).mono (by simp) (by simp) (by simp)

/-! ## Control -/

theorem State.keeps_branchIf (s : State) (cc : Cond) (target : Word) : s.Keeps (s.branchIf cc target) [] [] [.pc] := by
  unfold State.branchIf
  split
  · exact s.keeps_setPc target
  · exact (State.Keeps.refl s).mono (by simp) (by simp) (by simp)

theorem State.keeps_call (s : State) (r : Reg) : s.Keeps (s.call r) [Reg.sp] (wordBytes (s.reg Reg.sp - 2)) [.pc] :=
  (s.keeps_pushWord s.pc).trans (State.keeps_setPc _ _)

/-- A conditional call stores and moves SP only when it is taken (R186). -/
theorem State.keeps_callIf (s : State) (cc : Cond) (r : Reg) :
    s.Keeps (s.callIf cc r) (whenTaken cc s [Reg.sp])
      ((whenTaken cc s (wordCells (s.reg Reg.sp - 2) s.pc)).map Prod.fst) [.pc] := by
  rw [State.callIf_eq, whenTaken_map, whenTaken, whenTaken]
  split
  · exact s.keeps_call r
  · exact (State.Keeps.refl s).mono (by simp) (by simp) (by simp)

/-- The frame of a trap or an interrupt takes four bytes below SP (R265). -/
theorem State.keeps_pushFrame (s : State) :
    s.Keeps s.pushFrame [Reg.sp] (wordBytes (s.reg Reg.sp - 2) ++ wordBytes (s.reg Reg.sp - 4)) [] := by
  have hsp : (s.pushWord s.pc).reg Reg.sp - 2 = s.reg Reg.sp - 4 := by
    rw [State.reg_pushWord, if_pos rfl]; bv_omega
  have second := State.keeps_pushWord (s.pushWord s.pc) s.swValue
  rw [hsp] at second
  exact ((s.keeps_pushWord s.pc).trans second).mono (by simp) (by simp) (by simp)

/-- An entry that masks no line changes SP, the frame's bytes and `pc` (R187, R258). -/
theorem State.keeps_enterVector (s : State) (entry : Word) :
    s.Keeps (s.enterVector entry false) [Reg.sp]
      (wordBytes (s.reg Reg.sp - 2) ++ wordBytes (s.reg Reg.sp - 4)) [.pc] :=
  s.keeps_pushFrame.trans (State.keeps_setPc _ _)

/-- Interrupt entry also enters the history; SW is kept under the default `IRQ_AUTO_MASK` (R258, R259). -/
theorem State.keeps_takeInterrupt (s : State) (n : Fin 8) :
    s.Keeps (s.takeInterrupt n) [Reg.sp]
      (wordBytes (s.reg Reg.sp - 2) ++ wordBytes (s.reg Reg.sp - 4)) [.pc, .devices] := by
  have record : (s.enterVector (ivtEntry n) false).Keeps (s.takeInterrupt n) [] [] [.devices] :=
    .of_parts rfl rfl fun p hp => by cases p <;> simp_all [State.agree, State.takeInterrupt, Config.irqAutoMask]
  exact ((s.keeps_enterVector _).trans record).mono (by simp) (by simp) (by simp)

theorem State.keeps_leaveVector (s : State) : s.Keeps s.leaveVector [Reg.sp] [] [.pc, .sw] :=
  ((((s.keeps_dropBytes 2).trans (State.keeps_setSw _ _)).trans (State.keeps_dropBytes _ 2)).trans
    (State.keeps_setPc _ _)).mono (by simp) (by simp) (by simp)

/-! ## The instructions -/

/-- An outcome's frame from the frame of the state it was built with. -/
theorem State.Keeps.of_next {s u t : State} {rs : List Reg} {bs : List Word} {ps : List Part} (hu : s.Keeps u rs bs ps)
    (h : (Host.Outcome.next u : Host.Outcome State Fault Refusal) = .next t) : s.Keeps t rs bs ps := by
  cases h; exact hu

/-- DIV, when it completes, is the wide ALU operation (R154). -/
theorem execDiv_next {o1 o2 : Reg} {s t : State} (h : execDiv o1 o2 s = .next t) :
    s.reg o2 ≠ 0#16 ∧ t = s.aluWide (divResult Config.mulDivSigned) o1 o2 := by
  unfold execDiv at h
  split at h
  · cases h
  · next hne => exact ⟨hne, by cases h; rfl⟩

/-- Every instruction keeps what the tables of Safety.lean do not name: one arm for each meaning. -/
theorem exec_keeps {i : Instr} {s t : State} (h : exec i s = .next t) :
    s.Keeps t (writtenRegs i s) (storedBytes i s) (changedParts i) := by
  cases i with
  | ldi d imm => exact (s.keeps_setReg d _).of_next h
  | lda d v => exact ((s.keeps_setPc _).trans (State.keeps_setReg _ d v)).of_next h
  | ldbReg d a => exact (s.keeps_loadByte .register d a).of_next h
  | ldbBase d a => exact (s.keeps_loadByte .base d a).of_next h
  | ldbIdx d => exact (s.keeps_loadByte .index d Reg.ip0).of_next h
  | ldbInd d a => exact (s.keeps_loadByte .indirect d a).of_next h
  | ldwReg d a => exact (s.keeps_loadWord .register d a).of_next h
  | ldwBase d a => exact (s.keeps_loadWord .base d a).of_next h
  | ldwIdx d => exact (s.keeps_loadWord .index d Reg.ip0).of_next h
  | ldwInd d a => exact (s.keeps_loadWord .indirect d a).of_next h
  | mov d r => exact (s.keeps_setReg d _).of_next h
  | stbReg r a => exact (s.keeps_storeByte .register r a).of_next h
  | stbBase r a => exact (s.keeps_storeByte .base r a).of_next h
  | stbIdx r => exact (s.keeps_storeByte .index r Reg.ip1).of_next h
  | stbInd r a => exact (s.keeps_storeByte .indirect r a).of_next h
  | stwReg r a => exact (s.keeps_storeWord .register r a).of_next h
  | stwBase r a => exact (s.keeps_storeWord .base r a).of_next h
  | stwIdx r => exact (s.keeps_storeWord .index r Reg.ip1).of_next h
  | stwInd r a => exact (s.keeps_storeWord .indirect r a).of_next h
  | pushb r => exact (s.keeps_pushByte _).of_next h
  | pushw r => exact (s.keeps_pushWord _).of_next h
  | popb d =>
    exact (((s.keeps_dropBytes 1).trans (State.keeps_setLob _ d _)).mono
      (rs' := [d, Reg.sp]) (by simp) (by simp) (by simp)).of_next h
  | popw d =>
    exact (((s.keeps_dropBytes 2).trans (State.keeps_setReg _ d _)).mono
      (rs' := [d, Reg.sp]) (by simp) (by simp) (by simp)).of_next h
  | add d _ | sub d _ | bitAnd d _ | bitOr d _ | bitXor d _ | shl d _ | shr d _ =>
    exact (s.keeps_aluTwo _ d _).of_next h
  | bitNot d => exact (s.keeps_aluOne _ d).of_next h
  | mul o1 o2 => exact (s.keeps_aluWide _ o1 o2).of_next h
  | div o1 o2 =>
    obtain ⟨-, rfl⟩ := execDiv_next h
    exact s.keeps_aluWide _ o1 o2
  | brImm off => exact (s.keeps_setPc _).of_next h
  | brReg r => exact (s.keeps_setPc _).of_next h
  | brnImm _ | brnReg _ => exact (s.keeps_branchIf .n _).of_next h
  | brzImm _ | brzReg _ => exact (s.keeps_branchIf .z _).of_next h
  | brcImm _ | brcReg _ => exact (s.keeps_branchIf .c _).of_next h
  | broImm _ | broReg _ => exact (s.keeps_branchIf .o _).of_next h
  | jsr r => exact (s.keeps_call r).of_next h
  | jsrn r => exact (s.keeps_callIf .n r).of_next h
  | jsrz r => exact (s.keeps_callIf .z r).of_next h
  | jsrc r => exact (s.keeps_callIf .c r).of_next h
  | jsro r => exact (s.keeps_callIf .o r).of_next h
  | trap v => exact (s.keeps_enterVector _).of_next h
  | ret => exact ((s.keeps_dropBytes 2).trans (State.keeps_setPc _ _)).of_next h
  | reti => exact s.keeps_leaveVector.of_next h
  | portIn d port => exact ((s.keeps_afterPortRead port).trans (State.keeps_setLob _ d _)).of_next h
  | portOut r port => exact (s.keeps_writePort port _).of_next h
  | ei m => exact (s.keeps_setIrqEnables _).of_next h
  | di m => exact (s.keeps_setIrqEnables _).of_next h
  | halt => exact s.keeps_stopClock.of_next h
  | nop => exact (State.Keeps.refl s).of_next h
  | ldos off => exact (s.keeps_loadOsb _).of_next h
  | ldro off => exact (s.keeps_loadTxb _).of_next h

/-- Settles O14: the frame of the operation each meaning calls. -/
theorem everyInstructionKeepsItsFrame : Obligations.EveryInstructionKeepsItsFrame :=
  fun _ _ _ => exec_keeps

/-! ## The parts only one instruction changes -/

theorem rb_mem_changedParts {i : Instr} : Part.rb ∈ changedParts i ↔ i = .halt := by
  cases i <;> simp [changedParts]

theorem osb_mem_changedParts {i : Instr} : Part.osb ∈ changedParts i ↔ ∃ off, i = .ldos off := by
  cases i <;> simp [changedParts]

theorem txb_mem_changedParts {i : Instr} : Part.txb ∈ changedParts i ↔ ∃ off, i = .ldro off := by
  cases i <;> simp [changedParts]

/-- An instruction but HALT keeps RB (R34). -/
theorem exec_keeps_rb {i : Instr} {s t : State} (h : exec i s = .next t) (hi : i ≠ .halt) : t.rb = s.rb :=
  (exec_keeps h).parts .rb (mt rb_mem_changedParts.mp hi)

/-- OSB after an instruction: kept, or LDOS's PC-relative address (R31, R235). -/
theorem exec_osb {i : Instr} {s t : State} (h : exec i s = .next t) :
    t.osb = s.osb ∨ ∃ off, i = .ldos off ∧ t.osb = s.relative off := by
  by_cases hi : Part.osb ∈ changedParts i
  · obtain ⟨off, rfl⟩ := osb_mem_changedParts.mp hi
    exact .inr ⟨off, rfl, by cases h; rfl⟩
  · exact .inl ((exec_keeps h).parts .osb hi).1

/-- TXB after an instruction: kept, or LDRO's PC-relative address (R32, R236). -/
theorem exec_txb {i : Instr} {s t : State} (h : exec i s = .next t) :
    t.txb = s.txb ∨ ∃ off, i = .ldro off ∧ t.txb = s.relative off := by
  by_cases hi : Part.txb ∈ changedParts i
  · obtain ⟨off, rfl⟩ := txb_mem_changedParts.mp hi
    exact .inr ⟨off, rfl, by cases h; rfl⟩
  · exact .inl ((exec_keeps h).parts .txb hi).1

/-- Settles O15: an interrupt entry keeps RB, and so does every instruction but HALT. -/
theorem onlyHaltClearsTheRunBit : Obligations.OnlyHaltClearsTheRunBit := by
  intro s t h
  obtain ⟨hrb, ⟨n, hp, rfl⟩ | ⟨hp, i, u, hf, hu, rfl⟩⟩ := step_cases h
  · have hkept : (s.takeInterrupt n).rb = s.rb := (s.keeps_takeInterrupt n).parts .rb (by decide)
    simp [hrb, hp, hkept]
  · by_cases hi : i = .halt
    · subst hi; cases hu
      simp [hrb, hp, hf]
    · have hkept := exec_keeps_rb hu hi
      simp [hrb, hp, hf, hi, hkept]

/-- Settles O16: an interrupt entry keeps both boundaries, and so does every instruction but their writer. -/
theorem onlyLdosAndLdroWriteTheBoundaries : Obligations.OnlyLdosAndLdroWriteTheBoundaries := by
  intro s t h
  obtain ⟨-, ⟨n, -, rfl⟩ | ⟨hp, i, u, hf, hu, rfl⟩⟩ := step_cases h
  · have hkept := s.keeps_takeInterrupt n
    exact ⟨.inl (hkept.parts .osb (by decide)).1, .inl (hkept.parts .txb (by decide)).1⟩
  · refine ⟨(exec_osb hu).imp id ?_, (exec_txb hu).imp id ?_⟩
    · rintro ⟨off, rfl, hosb⟩
      exact ⟨hp, off, hf, hosb⟩
    · rintro ⟨off, rfl, htxb⟩
      exact ⟨hp, off, hf, htxb⟩

end Sys2Proof.Machine

/-! PROOF. MUL and DIV: their encodings, what the wide ALU operation leaves, and the arithmetic of the signed product, the
quotient and the remainder. -/

namespace Sys2Proof.Machine

/-! ## One-word encodings -/

/-- A one-word opcode whose strict decoding is an instruction encodes it, whatever follows (R80, R96). -/
theorem encodes_of_decodeWord {w : Word} {i : Instr} (hone : hasOperandWord w = false)
    (hdec : decodeWord Config.strictReservedFields w 0#16 = .ok i) : Encodes w i := by
  intro rest
  simp [bytesOfWord, decode, hone, hdec]

theorem encodes_mul (d r : Reg) : Encodes (encRRM 0b01001#5 d r 0b010#3) (.mul d r) :=
  encodes_of_decodeWord (by simp [hasOperandWord]) (by simp [decodeWord, decodeAlu, reg1, reg2])

theorem encodes_div (d r : Reg) : Encodes (encRRM 0b01001#5 d r 0b011#3) (.div d r) :=
  encodes_of_decodeWord (by simp [hasOperandWord]) (by simp [decodeWord, decodeAlu, reg1, reg2])

/-! ## What the wide operation leaves -/

@[simp] theorem State.flags_setFlags (s : State) (f : Flags) : (s.setFlags f).flags = f := by
  simp [State.flags]

theorem State.flags_aluWide (s : State) (f : Word → Word → WideResult) (o1 o2 : Reg) :
    (s.aluWide f o1 o2).flags = (f (s.reg o1) (s.reg o2)).flags :=
  State.flags_setFlags _ _

theorem State.swLow_aluWide (s : State) (f : Word → Word → WideResult) (o1 o2 : Reg) :
    (s.aluWide f o1 o2).sw.extractLsb' 0 12 = s.sw.extractLsb' 0 12 :=
  State.swLow_setFlags s _

theorem State.reg_r8_aluWide (s : State) (f : Word → Word → WideResult) (o1 o2 : Reg) :
    (s.aluWide f o1 o2).reg 8 = (f (s.reg o1) (s.reg o2)).hi := by
  rw [State.reg_aluWide, if_neg (by decide), if_pos rfl]

theorem State.reg_r9_aluWide (s : State) (f : Word → Word → WideResult) (o1 o2 : Reg) :
    (s.aluWide f o1 o2).reg 9 = (f (s.reg o1) (s.reg o2)).lo := by
  rw [State.reg_aluWide, if_pos rfl]

/-! ## The signed product -/

/-- A product of two words fits 32 bits (R153). -/
theorem toInt_product (a b : Word) : (BitVec.ofInt 32 (a.toInt * b.toInt)).toInt = a.toInt * b.toInt := by
  have hlow := BitVec.le_toInt_mul_toInt (x := a) (y := b)
  have hhigh := BitVec.toInt_mul_toInt_le (x := a) (y := b)
  exact BitVec.toInt_ofInt_eq_self (by decide) (by omega) (by omega)

theorem mulResult_toInt (a b : Word) : ((mulResult true a b).hi ++ (mulResult true a b).lo).toInt = a.toInt * b.toInt := by
  have hhalves : (mulResult true a b).hi ++ (mulResult true a b).lo = BitVec.ofInt 32 (a.toInt * b.toInt) :=
    BitVec.extractLsb'_append_extractLsb'
  rw [hhalves, toInt_product]

theorem mulResult_flags (a b : Word) :
    (mulResult true a b).flags = ⟨decide (a.toInt * b.toInt < 0), decide (a.toInt * b.toInt = 0), false, false⟩ := by
  have hnegative : (BitVec.ofInt 32 (a.toInt * b.toInt)).msb = decide (a.toInt * b.toInt < 0) := by
    rw [BitVec.msb_eq_toInt, toInt_product]
  have hzero : (BitVec.ofInt 32 (a.toInt * b.toInt) == 0#32) = decide (a.toInt * b.toInt = 0) := by
    rw [Bool.beq_eq_decide_eq]
    exact decide_eq_decide.mpr (by rw [← BitVec.toInt_inj, toInt_product, BitVec.toInt_zero])
  simp [mulResult, hnegative, hzero]

/-- Settles O37: the two halves of the 32-bit product, under the default `MULDIV_SIGNED`. -/
theorem mulResultAndFlags : Obligations.MulResultAndFlags := by
  intro d r s
  refine ⟨encodes_mul d r, s.aluWide (mulResult true) d r, rfl, ?_, ?_, s.swLow_aluWide _ d r, s.keeps_aluWide _ d r⟩
  · rw [State.reg_r8_aluWide, State.reg_r9_aluWide, mulResult_toInt]
  · rw [State.flags_aluWide, mulResult_flags]

/-! ## The signed quotient and remainder -/

theorem natAbs_tmod_lt (x : Int) {y : Int} (hy : y ≠ 0) : (x.tmod y).natAbs < y.natAbs := by
  rw [Int.natAbs_tmod]
  exact Nat.mod_lt _ (Int.natAbs_pos.mpr hy)

/-- Rounded toward zero, a quotient is no longer than its dividend, so it leaves the range of a word at -32768 / -1 only. -/
theorem tdiv_range {x y : Int} (hx : -32768 ≤ x ∧ x < 32768) (hy : y ≠ 0) (ho : ¬(x = -32768 ∧ y = -1)) :
    -32768 ≤ x.tdiv y ∧ x.tdiv y < 32768 := by
  have hlength := Int.natAbs_tdiv_le_natAbs x y
  have hedge : x.tdiv y ≠ 32768 := by
    intro hq
    have hlaw := Int.mul_tdiv_add_tmod x y
    have hsmall := natAbs_tmod_lt x hy
    rw [hq] at hlaw hlength
    omega
  omega

/-- The remainder of a division rounded toward zero has the dividend's sign, or is 0. -/
theorem mul_tmod_nonneg (x y : Int) : 0 ≤ x * x.tmod y := by
  rcases Int.le_total 0 x with hx | hx
  · exact mul_nonneg hx (Int.tmod_nonneg y hx)
  · have hneg : 0 ≤ -x.tmod y := by
      rw [← Int.neg_tmod]
      exact Int.tmod_nonneg y (by omega)
    exact mul_nonneg_of_nonpos_of_nonpos hx (by omega)

theorem word_toInt_range (a : Word) : -32768 ≤ a.toInt ∧ a.toInt < 32768 :=
  ⟨a.le_toInt, a.toInt_lt⟩

theorem toInt_ne_zero {b : Word} (hb : b ≠ 0#16) : b.toInt ≠ 0 :=
  fun h => hb (BitVec.eq_of_toInt_eq (h.trans BitVec.toInt_zero.symm))

/-- -32768 / -1 in numbers and in words (R154). -/
theorem divOverflow_iff (a b : Word) : a.toInt = -32768 ∧ b.toInt = -1 ↔ a = 0x8000#16 ∧ b = 0xFFFF#16 := by
  rw [← BitVec.toInt_inj (y := 0x8000#16), ← BitVec.toInt_inj (y := 0xFFFF#16)]
  rfl

theorem divResult_hi_toInt {a b : Word} (hb : b ≠ 0#16) (ho : ¬(a = 0x8000#16 ∧ b = 0xFFFF#16)) :
    (divResult true a b).hi.toInt = a.toInt.tdiv b.toInt := by
  obtain ⟨hlow, hhigh⟩ := tdiv_range (word_toInt_range a) (toInt_ne_zero hb) (mt (divOverflow_iff a b).mp ho)
  exact BitVec.toInt_ofInt_eq_self (by decide) hlow hhigh

theorem divResult_lo_toInt {a b : Word} (hb : b ≠ 0#16) : (divResult true a b).lo.toInt = a.toInt.tmod b.toInt := by
  have hlo : (divResult true a b).lo = BitVec.ofInt 16 (a.toInt.tmod b.toInt) := by
    rw [Int.tmod_def, Int.mul_comm]; rfl
  have hsmall := natAbs_tmod_lt a.toInt (toInt_ne_zero hb)
  have hrange := word_toInt_range b
  rw [hlo]
  exact BitVec.toInt_ofInt_eq_self (by decide) (by omega) (by omega)

/-- The law of division (R154): it fixes the quotient and the remainder, the overflow case apart. -/
theorem divResult_law {a b : Word} (hb : b ≠ 0#16) (ho : ¬(a = 0x8000#16 ∧ b = 0xFFFF#16)) :
    a.toInt = (divResult true a b).hi.toInt * b.toInt + (divResult true a b).lo.toInt ∧
      (divResult true a b).lo.toInt.natAbs < b.toInt.natAbs ∧ 0 ≤ a.toInt * (divResult true a b).lo.toInt := by
  rw [divResult_hi_toInt hb ho, divResult_lo_toInt hb]
  refine ⟨?_, natAbs_tmod_lt _ (toInt_ne_zero hb), mul_tmod_nonneg _ _⟩
  rw [Int.mul_comm, Int.mul_tdiv_add_tmod]

theorem divResult_overflow : (divResult true 0x8000#16 0xFFFF#16).hi = 0x8000#16 ∧
    (divResult true 0x8000#16 0xFFFF#16).lo = 0#16 := by decide

theorem divResult_flags (a b : Word) :
    (divResult true a b).flags =
      ⟨(divResult true a b).hi.getLsbD 15, decide ((divResult true a b).hi = 0#16), false,
        decide (a = 0x8000#16 ∧ b = 0xFFFF#16)⟩ := by
  have hover : decide (a.toInt = -32768 ∧ b.toInt = -1) = decide (a = 0x8000#16 ∧ b = 0xFFFF#16) :=
    decide_eq_decide.mpr (divOverflow_iff a b)
  rw [← hover, ← Bool.beq_eq_decide_eq]
  rfl

theorem execDiv_zero {o1 o2 : Reg} {s : State} (h : s.reg o2 = 0#16) :
    execDiv o1 o2 s = .fault (.divideByZero (s.pc - 2)) := by
  rw [execDiv, if_pos h]

theorem execDiv_nonzero {o1 o2 : Reg} {s : State} (h : s.reg o2 ≠ 0#16) :
    execDiv o1 o2 s = .next (s.aluWide (divResult true) o1 o2) := by
  rw [execDiv, if_neg h]; rfl

/-- Settles O38: the law of division, the one overflow, and the fault, under the default `MULDIV_SIGNED`. -/
theorem divResultAndFlags : Obligations.DivResultAndFlags := by
  intro d r s
  refine ⟨encodes_div d r, execDiv_zero, fun hr => ⟨s.aluWide (divResult true) d r, execDiv_nonzero hr, ?_, ?_,
    s.swLow_aluWide _ d r, s.keeps_aluWide _ d r⟩⟩
  · rw [State.reg_r8_aluWide, State.reg_r9_aluWide]
    split
    · next hover =>
      obtain ⟨hdividend, hdivisor⟩ := hover
      rw [hdividend, hdivisor]
      exact divResult_overflow
    · next hover => exact divResult_law hr hover
  · rw [State.flags_aluWide, State.reg_r8_aluWide, divResult_flags]

end Sys2Proof.Machine

/-! PROOF. Memory: word accesses are byte accesses in big-endian order, and what an instruction stores is what the next
fetch reads. One rule for every instruction, `exec_readByte`, reads memory back through the cells of `stores`. -/

namespace Sys2Proof.Machine

/-! ## Words and bytes -/

/-- Two bytes stored in memory order read back as their word (R50, R53). -/
theorem State.readWord_writeByte_writeByte (s : State) (a : Word) (b0 b1 : Byte) :
    ((s.writeByte a b0).writeByte (a + 1) b1).readWord a = wordOfBytes b0 b1 := by
  simp [State.readWord]

/-- Settles O22: a word store is its two byte stores, and `a + 1` is never `a`, across the end of memory either. -/
theorem wordAndByteAccessesAgree : Obligations.WordAndByteAccessesAgree := by
  refine ⟨fun s a v => ⟨?_, ?_, fun k hk hk1 => ?_⟩, State.readWord_writeByte_writeByte⟩
  · rw [State.readByte_writeWord, if_neg (word_add_one_ne a).symm, if_pos rfl]
  · rw [State.readByte_writeWord, if_pos rfl]
  · rw [State.readByte_writeWord, if_neg hk1, if_neg hk]

/-! ## Memory after an operation, read through the cells it stores -/

/-- A byte store, read back through the cell it stores. -/
theorem State.readByte_writeByte_cell (s : State) (a k : Word) (b : Byte) :
    (s.writeByte a b).readByte k = ([(a, b)].lookup k).getD (s.readByte k) := by
  rw [State.readByte_writeByte, List.lookup_cons]
  by_cases hk : k = a
  · simp [hk]
  · simp [hk, beq_eq_false_iff_ne.mpr hk]

theorem State.readByte_storeByte_cell (s : State) (m : Mode) (r a : Reg) (k : Word) :
    (s.storeByte m r a).readByte k = ([(s.ea m a, lob (s.reg r))].lookup k).getD (s.readByte k) := by
  rw [State.storeByte, State.bump_readByte, State.readByte_writeByte_cell]

theorem State.readByte_storeWord_cells (s : State) (m : Mode) (r a : Reg) (k : Word) :
    (s.storeWord m r a).readByte k = ((wordCells (s.ea m a) (s.reg r)).lookup k).getD (s.readByte k) := by
  rw [State.storeWord, State.bump_readByte, State.readByte_writeWord_cells]

theorem State.readByte_pushByte_cell (s : State) (b : Byte) (k : Word) :
    (s.pushByte b).readByte k = ([(s.reg Reg.sp - 1, b)].lookup k).getD (s.readByte k) := by
  rw [State.pushByte, State.readByte_writeByte_cell, State.setReg_readByte]

theorem State.readByte_pushWord_cells (s : State) (v k : Word) :
    (s.pushWord v).readByte k = ((wordCells (s.reg Reg.sp - 2) v).lookup k).getD (s.readByte k) := by
  rw [State.pushWord, State.readByte_writeWord_cells, State.setReg_readByte]

/-- A conditional call stores the return address when it is taken, and nothing when it is not (R186). -/
theorem State.readByte_callIf_cells (s : State) (cc : Cond) (r : Reg) (k : Word) :
    (s.callIf cc r).readByte k =
      ((whenTaken cc s (wordCells (s.reg Reg.sp - 2) s.pc)).lookup k).getD (s.readByte k) := by
  rw [State.callIf_eq, whenTaken]
  split
  · exact s.readByte_pushWord_cells s.pc k
  · rfl

/-- The frame of a trap: the cells of `pc` and those of SW below them are four different ones (R265). -/
theorem State.readByte_pushFrame_cells (s : State) (k : Word) :
    s.pushFrame.readByte k =
      ((wordCells (s.reg Reg.sp - 2) s.pc ++ wordCells (s.reg Reg.sp - 4) s.swValue).lookup k).getD (s.readByte k) := by
  have hpc : s.reg Reg.sp - 2 + 1 = s.reg Reg.sp - 1 := by bv_omega
  have hsw : s.reg Reg.sp - 4 + 1 = s.reg Reg.sp - 3 := by bv_omega
  rw [State.readByte_pushFrame, List.lookup_append, lookup_wordCells, lookup_wordCells, hpc, hsw]
  split_ifs <;> simp_all

/-! ## Memory after an instruction -/

/-- Memory after any instruction: what it stored, and the former bytes elsewhere (R57, R66). The frame tells it of the
instructions that store nothing. -/
theorem exec_readByte {i : Instr} {s t : State} (h : exec i s = .next t) (k : Word) :
    t.readByte k = ((stores i s).lookup k).getD (s.readByte k) := by
  cases i with
  | stbReg r a | stbBase r a | stbInd r a => cases h; exact s.readByte_storeByte_cell _ r a k
  | stbIdx r => cases h; exact s.readByte_storeByte_cell .index r Reg.ip1 k
  | stwReg r a | stwBase r a | stwInd r a => cases h; exact s.readByte_storeWord_cells _ r a k
  | stwIdx r => cases h; exact s.readByte_storeWord_cells .index r Reg.ip1 k
  | pushb r => cases h; exact s.readByte_pushByte_cell _ k
  | pushw r => cases h; exact s.readByte_pushWord_cells _ k
  | jsr r => cases h; exact s.readByte_pushWord_cells s.pc k
  | jsrn r | jsrz r | jsrc r | jsro r => cases h; exact s.readByte_callIf_cells _ r k
  | trap v => cases h; exact s.readByte_pushFrame_cells k
  | _ => exact (exec_keeps h).memory k List.not_mem_nil

/-! ## Fetching what was stored -/

/-- What is fetched is two words in memory order, the word at `pc` and the one behind it (R52, R300). -/
theorem State.fetchBytes_eq_words (s : State) :
    s.fetchBytes = bytesOfWord (s.readWord s.pc) ++ bytesOfWord (s.readWord (s.pc + 2)) := by
  have hnext : s.pc + 2 + 1 = s.pc + 3 := by bv_omega
  rw [State.readWord, State.readWord, hnext]
  simp [State.fetchBytes, bytesOfWord]

/-- The word behind an LDA is its operand, whatever it is (R83, R113). -/
theorem decode_lda (d : Reg) (v : Word) (rest : List Byte) :
    decode (bytesOfWord (encI7 0b00010#5 d 0b0000000#7) ++ bytesOfWord v ++ rest) = .ok (.lda d v, rest) := by
  have hword : decodeWord Config.strictReservedFields (encI7 0b00010#5 d 0b0000000#7) v = .ok (.lda d v) := by
    simp [decodeWord, needZero, reg1]
  simp [bytesOfWord, decode, hasOperandWord, hword]

/-- An LDA at `pc` is fetched with the word at `pc + 2` as its operand (R83, R300). -/
theorem State.fetchInstr_lda {s : State} {d : Reg} (h : s.readWord s.pc = encI7 0b00010#5 d 0b0000000#7) :
    s.fetchInstr = .ok (.lda d (s.readWord (s.pc + 2))) := by
  rw [State.fetchInstr, State.fetchBytes_eq_words, h, ← List.append_nil (_ ++ _), decode_lda]

/-- STW in any mode is the word store of its mode, at the address `storedBytes` names (R124 to R130). -/
theorem exec_stw {r a : Reg} {i : Instr} {s t : State} (hi : i ∈ [Instr.stwReg r a, .stwBase r a, .stwIdx r, .stwInd r a])
    (h : exec i s = .next t) : ∃ m x, t = s.storeWord m r x ∧ storedBytes i s = wordBytes (s.ea m x) := by
  simp only [List.mem_cons, List.not_mem_nil, or_false] at hi
  rcases hi with rfl | rfl | rfl | rfl <;> cases h
  · exact ⟨.register, a, rfl, rfl⟩
  · exact ⟨.base, a, rfl, rfl⟩
  · exact ⟨.index, Reg.ip1, rfl, rfl⟩
  · exact ⟨.indirect, a, rfl, rfl⟩

theorem wordBytes_inj {a b : Word} (h : wordBytes a = wordBytes b) : a = b := (List.cons.inj h).1

theorem State.storeWord_pc (s : State) (m : Mode) (r a : Reg) : (s.storeWord m r a).pc = s.pc := by
  rw [State.storeWord_eq]

/-- A stored word is the word read at its address (R53). -/
theorem State.readWord_storeWord_same (s : State) (m : Mode) (r a : Reg) :
    (s.storeWord m r a).readWord (s.ea m a) = s.reg r := by
  simp [State.readWord, State.readByte_storeWord]

/-- A word stored two bytes on leaves the word before it as it was, across the end of memory too (R54, R56). -/
theorem State.readWord_storeWord_before {s : State} {m : Mode} {a : Reg} {p : Word} (r : Reg) (h : s.ea m a = p + 2) :
    (s.storeWord m r a).readWord p = s.readWord p := by
  have hkept : ∀ k ∈ wordBytes p, (s.storeWord m r a).readByte k = s.readByte k := by
    intro k hk
    refine (s.keeps_storeWord m r a).memory k ?_
    rw [h]
    simp only [wordBytes, List.mem_cons, List.not_mem_nil, or_false] at hk ⊢
    rcases hk with rfl | rfl <;> bv_omega
  rw [State.readWord, State.readWord, hkept p (by simp [wordBytes]), hkept (p + 1) (by simp [wordBytes])]

/-- Settles O23: a fetch reads memory as the instruction before left it, `exec_readByte`; a word STW stored is there. -/
theorem storeIsSeenByTheNextFetch : Obligations.StoreIsSeenByTheNextFetch := by
  refine ⟨fun i s t h q => ?_, fun r a d s t i hi h => ?_⟩
  · simp [State.fetchBytes, exec_readByte h]
  · obtain ⟨m, x, rfl, hstored⟩ := exec_stw hi h
    rw [hstored]
    refine ⟨fun hat => ?_, fun hat hlda => ?_⟩
    · have hword : (s.storeWord m r x).readWord s.pc = s.reg r := by
        rw [← wordBytes_inj hat, State.readWord_storeWord_same]
      rw [State.fetchBytes_eq_words, State.fetched, State.storeWord_pc, hword]
      exact ⟨rfl, rfl⟩
    · have hop := wordBytes_inj hat
      rw [State.fetchInstr_lda (d := d) (by rw [State.storeWord_pc, State.readWord_storeWord_before r hop, hlda]; rfl),
        State.storeWord_pc, ← hop, State.readWord_storeWord_same]

end Sys2Proof.Machine

/-! PROOF. The encoder and the decoder: an encoded instruction decodes to itself, so every printed encoding of a one-word
instruction is read back by `encodes_of_encode`; what a successful decoding can be; and the words that fault wherever they
are fetched. -/

namespace Sys2Proof.Machine

/-! ## The decoder, opcode by opcode (R86) -/

section
variable {strict : Bool} {w : Word} (operand : Word)

theorem decodeWord_ldi (h : opField w = 0b00001#5) :
    decodeWord strict w operand = .ok (.ldi (reg1 w) (immed7Field w)) := by
  rw [decodeWord, h]; rfl

theorem decodeWord_lda (h : opField w = 0b00010#5) :
    decodeWord strict w operand = needZero strict w (immed7Field w) (.lda (reg1 w) operand) := by
  rw [decodeWord, h]; rfl

theorem decodeWord_ldb (h : opField w = 0b00011#5) : decodeWord strict w operand = decodeLdb w := by
  rw [decodeWord, h]; rfl

theorem decodeWord_ldw (h : opField w = 0b00100#5) : decodeWord strict w operand = decodeLdw w := by
  rw [decodeWord, h]; rfl

theorem decodeWord_stb (h : opField w = 0b00101#5) : decodeWord strict w operand = decodeStb w := by
  rw [decodeWord, h]; rfl

theorem decodeWord_stw (h : opField w = 0b00110#5) : decodeWord strict w operand = decodeStw w := by
  rw [decodeWord, h]; rfl

theorem decodeWord_stack (h : opField w = 0b00111#5) : decodeWord strict w operand = decodeStack strict w := by
  rw [decodeWord, h]; rfl

theorem decodeWord_shl (h : opField w = 0b01000#5) : decodeWord strict w operand = decodeShl w := by
  rw [decodeWord, h]; rfl

theorem decodeWord_alu (h : opField w = 0b01001#5) : decodeWord strict w operand = decodeAlu strict w := by
  rw [decodeWord, h]; rfl

theorem decodeWord_shr (h : opField w = 0b01010#5) : decodeWord strict w operand = decodeShr w := by
  rw [decodeWord, h]; rfl

theorem decodeWord_brImm (h : opField w = 0b10000#5) : decodeWord strict w operand = .ok (.brImm (immed11Field w)) := by
  rw [decodeWord, h]; rfl

theorem decodeWord_brReg (h : opField w = 0b10001#5) :
    decodeWord strict w operand = needZero strict w (immed7Field w) (.brReg (reg1 w)) := by
  rw [decodeWord, h]; rfl

theorem decodeWord_branchImm (h : opField w = 0b10010#5) : decodeWord strict w operand = decodeBranchImm w := by
  rw [decodeWord, h]; rfl

theorem decodeWord_branchReg (h : opField w = 0b10011#5) : decodeWord strict w operand = decodeBranchReg strict w := by
  rw [decodeWord, h]; rfl

theorem decodeWord_jsr (h : opField w = 0b10100#5) :
    decodeWord strict w operand = needZero strict w (immed7Field w) (.jsr (reg1 w)) := by
  rw [decodeWord, h]; rfl

theorem decodeWord_callCond (h : opField w = 0b10101#5) : decodeWord strict w operand = decodeCallCond strict w := by
  rw [decodeWord, h]; rfl

theorem decodeWord_trap (h : opField w = 0b10110#5) :
    decodeWord strict w operand = needZero strict w (trapZeroField w) (.trap (vect6Field w)) := by
  rw [decodeWord, h]; rfl

theorem decodeWord_return (h : opField w = 0b10111#5) : decodeWord strict w operand = decodeReturn strict w := by
  rw [decodeWord, h]; rfl

theorem decodeWord_io (h : opField w = 0b11000#5) : decodeWord strict w operand = decodeIo w := by
  rw [decodeWord, h]; rfl

theorem decodeWord_irq (h : opField w = 0b11001#5) : decodeWord strict w operand = decodeIrq w := by
  rw [decodeWord, h]; rfl

theorem decodeWord_halt (h : opField w = 0b11010#5) :
    decodeWord strict w operand = needZero strict w (immed11Field w) .halt := by
  rw [decodeWord, h]; rfl

theorem decodeWord_nop (h : opField w = 0b11011#5) :
    decodeWord strict w operand = needZero strict w (immed11Field w) .nop := by
  rw [decodeWord, h]; rfl

theorem decodeWord_ldos (h : opField w = 0b11100#5) : decodeWord strict w operand = .ok (.ldos (immed11Field w)) := by
  rw [decodeWord, h]; rfl

theorem decodeWord_ldro (h : opField w = 0b11101#5) : decodeWord strict w operand = .ok (.ldro (immed11Field w)) := by
  rw [decodeWord, h]; rfl

end

/-! ## Decoding an encoded instruction -/

theorem needZero_zero (strict : Bool) (w : Word) (n : Nat) (i : Instr) : needZero strict w 0#n i = .ok i := by
  simp [needZero]

/-- Every instruction but LDA is one word, which its opcode's decoder reads back; one group of cases for each opcode
(R80, R86 to R90). -/
theorem encode_oneWord {i : Instr} (hwf : i.WellFormed = true) (hlda : ∀ d v, i ≠ .lda d v) :
    ∃ w, encode i = [w] ∧ Encodes w i := by
  suffices h : ∃ w, encode i = [w] ∧ hasOperandWord w = false ∧
      decodeWord Config.strictReservedFields w 0#16 = .ok i by
    obtain ⟨w, henc, hone, hdec⟩ := h
    exact ⟨w, henc, encodes_of_decodeWord hone hdec⟩
  cases i with
  | lda d v => exact absurd rfl (hlda d v)
  | ldi d imm => simp [encode, hasOperandWord, decodeWord_ldi, reg1]
  | ldbReg d a | ldbBase d a | ldbIdx d | ldbInd d a =>
    simp [encode, hasOperandWord, decodeWord_ldb, decodeLdb, needIndex, reg1, reg2]
  | ldwReg d a | ldwBase d a | ldwIdx d | ldwInd d a | mov d r =>
    simp [encode, hasOperandWord, decodeWord_ldw, decodeLdw, needIndex, reg1, reg2]
  | stbReg r a | stbBase r a | stbIdx r | stbInd r a =>
    simp [encode, hasOperandWord, decodeWord_stb, decodeStb, needIndex, reg1, reg2]
  | stwReg r a | stwBase r a | stwIdx r | stwInd r a =>
    simp [encode, hasOperandWord, decodeWord_stw, decodeStw, needIndex, reg1, reg2]
  | pushb r | popb r | pushw r | popw r =>
    simp [encode, hasOperandWord, decodeWord_stack, decodeStack, needZero_zero, reg1]
  | add d r | sub d r | mul d r | div d r | bitAnd d r | bitOr d r | bitXor d r =>
    simp [encode, hasOperandWord, decodeWord_alu, decodeAlu, reg1, reg2]
  | bitNot d => simp [encode, hasOperandWord, decodeWord_alu, decodeAlu, needZero_zero, reg1]
  | shl d r => simp [encode, hasOperandWord, decodeWord_shl, decodeShl, reg1, reg2]
  | shr d r => simp [encode, hasOperandWord, decodeWord_shr, decodeShr, reg1, reg2]
  | brImm off => simp [encode, hasOperandWord, decodeWord_brImm]
  | brReg r => simp [encode, hasOperandWord, decodeWord_brReg, needZero_zero, reg1]
  | jsr r => simp [encode, hasOperandWord, decodeWord_jsr, needZero_zero, reg1]
  | brnImm off | brzImm off | brcImm off | broImm off => simp [encode, hasOperandWord, decodeWord_branchImm, decodeBranchImm]
  | brnReg r | brzReg r | brcReg r | broReg r =>
    simp [encode, hasOperandWord, decodeWord_branchReg, decodeBranchReg, needZero_zero, reg1]
  | jsrn r | jsrz r | jsrc r | jsro r =>
    simp [encode, hasOperandWord, decodeWord_callCond, decodeCallCond, needZero_zero, reg1]
  | trap v => simp [encode, hasOperandWord, decodeWord_trap, needZero_zero]
  | ret | reti => simp [encode, hasOperandWord, decodeWord_return, decodeReturn, needZero_zero]
  | portIn r port | portOut r port =>
    have hport : port < 64 := of_decide_eq_true hwf
    simp [encode, hasOperandWord, decodeWord_io, decodeIo, reg1, hport]
  | ei m | di m => simp [encode, hasOperandWord, decodeWord_irq, decodeIrq]
  | halt => simp [encode, hasOperandWord, decodeWord_halt, needZero_zero]
  | nop => simp [encode, hasOperandWord, decodeWord_nop, needZero_zero]
  | ldos off => simp [encode, hasOperandWord, decodeWord_ldos]
  | ldro off => simp [encode, hasOperandWord, decodeWord_ldro]

/-- Settles O1: LDA is read back with its operand word, every other instruction from its one word. -/
theorem decodeOfEncodeGivesTheInstruction : Obligations.DecodeOfEncodeGivesTheInstruction := by
  intro i rest hwf
  by_cases hlda : ∃ d v, i = .lda d v
  · obtain ⟨d, v, rfl⟩ := hlda
    exact decode_lda d v rest
  · obtain ⟨w, henc, hdec⟩ := encode_oneWord hwf fun d v h => hlda ⟨d, v, h⟩
    simpa [encodeBytes, henc] using hdec rest

/-- The one word of a well-formed instruction's encoding encodes it: `encodes_of_encode rfl rfl` for each encoding the
spec prints. -/
theorem encodes_of_encode {w : Word} {i : Instr} (hwf : i.WellFormed = true) (h : encode i = [w]) : Encodes w i := by
  intro rest
  simpa [encodeBytes, h] using decodeOfEncodeGivesTheInstruction i rest hwf

/-! ## What a successful decoding can be -/

/-- The bytes of a decoded instruction: two, and two more for the operand word when the first word's opcode is LDA's
(R80, R83). -/
theorem decode_cases {bytes rest : List Byte} {i : Instr} (h : decode bytes = .ok (i, rest)) :
    ∃ b0 b1 more, bytes = b0 :: b1 :: more ∧
      ((opField (wordOfBytes b0 b1) = 0b00010#5 ∧ ∃ b2 b3, more = b2 :: b3 :: rest ∧
          decodeWord Config.strictReservedFields (wordOfBytes b0 b1) (wordOfBytes b2 b3) = .ok i) ∨
        (opField (wordOfBytes b0 b1) ≠ 0b00010#5 ∧ more = rest ∧
          decodeWord Config.strictReservedFields (wordOfBytes b0 b1) 0#16 = .ok i)) := by
  unfold decode at h
  split at h
  · next b0 b1 more =>
    refine ⟨b0, b1, more, rfl, ?_⟩
    split at h
    · next hop =>
      split at h
      · next b2 b3 rest' =>
        split at h
        · next hdec => cases h; exact .inl ⟨by simpa [hasOperandWord] using hop, b2, b3, rfl, hdec⟩
        · cases h
      · cases h
    · next hop =>
      split at h
      · next hdec => cases h; exact .inr ⟨by simpa [hasOperandWord] using hop, rfl, hdec⟩
      · cases h
  · cases h

theorem needZero_eq_ok {strict : Bool} {w : Word} {n : Nat} {bits : BitVec n} {i j : Instr} :
    needZero strict w bits i = .ok j ↔ ¬(strict = true ∧ bits ≠ 0#n) ∧ i = j := by
  unfold needZero
  split <;> simp_all

theorem needIndex_eq_ok {w : Word} {index : Reg} {i j : Instr} :
    needIndex w index i = .ok j ↔ reg2 w = index ∧ i = j := by
  unfold needIndex
  split <;> simp_all

/-- The decoders of opcodes with several forms name no LDA. -/
theorem formDecoders_ne_lda (strict : Bool) (w : Word) (d : Reg) (v : Word) :
    ∀ r ∈ [decodeLdb w, decodeLdw w, decodeStb w, decodeStw w, decodeStack strict w, decodeShl w, decodeAlu strict w,
      decodeShr w, decodeBranchImm w, decodeBranchReg strict w, decodeCallCond strict w, decodeReturn strict w, decodeIo w,
      decodeIrq w], r ≠ .ok (.lda d v) := by
  simp only [List.forall_mem_cons, List.not_mem_nil, false_implies, implies_true, and_true]
  and_intros
  all_goals
    simp only [decodeLdb, decodeLdw, decodeStb, decodeStw, decodeStack, decodeShl, decodeAlu, decodeShr, decodeBranchImm,
      decodeBranchReg, decodeCallCond, decodeReturn, decodeIo, decodeIrq]
    split <;> simp [needZero_eq_ok, needIndex_eq_ok, badMode]

/-- LDA's opcode decodes to LDA only (R86). -/
theorem eq_lda_of_decodeWord {strict : Bool} {w operand : Word} {i : Instr} (hop : opField w = 0b00010#5)
    (h : decodeWord strict w operand = .ok i) : i = .lda (reg1 w) operand := by
  rw [decodeWord_lda operand hop] at h
  obtain ⟨-, hlda⟩ := needZero_eq_ok.mp h
  exact hlda.symm

/-- No other opcode decodes to LDA (R86). -/
theorem opField_of_decodeWord_lda {strict : Bool} {w operand : Word} {d : Reg} {v : Word}
    (h : decodeWord strict w operand = .ok (.lda d v)) : opField w = 0b00010#5 := by
  have hforms := formDecoders_ne_lda strict w d v
  simp only [List.forall_mem_cons] at hforms
  unfold decodeWord at h
  split at h
  case h_2 hop => exact BitVec.eq_of_toNat_eq hop
  all_goals simp [needZero_eq_ok, hforms] at h

/-- Settles O4: by the bytes of a decoded instruction, and the one opcode that is LDA. -/
theorem opcodeTellsTheLength : Obligations.OpcodeTellsTheLength := by
  intro bytes i rest h
  obtain ⟨b0, b1, more, rfl, hlong | hshort⟩ := decode_cases h
  · obtain ⟨hop, b2, b3, rfl, hdec⟩ := hlong
    refine ⟨b0, b1, _, rfl, ?_⟩
    rw [if_pos hop]
    exact ⟨⟨_, _, eq_lda_of_decodeWord hop hdec⟩, rfl⟩
  · obtain ⟨hop, rfl, hdec⟩ := hshort
    refine ⟨b0, b1, _, rfl, ?_⟩
    rw [if_neg hop]
    exact ⟨fun d v hi => hop (opField_of_decodeWord_lda (hi ▸ hdec)), rfl⟩

/-- Settles O6, by running the decoder on each word. -/
theorem sampleWordsDecode : Obligations.SampleWordsDecode := by
  unfold Obligations.SampleWordsDecode
  decide

/-! ## Words that fault wherever they are fetched -/

/-- A word the decoder rejects whatever follows it is the fault `ReservedEncoding` of the step that fetches it (R99). -/
theorem faultsAsReserved_of_decodeWord {w : Word} {e : DecodeError}
    (hdec : ∀ operand, decodeWord Config.strictReservedFields w operand = .error e) : FaultsAsReserved w := by
  intro s hfetch hw
  obtain ⟨hrun, hpending⟩ := hfetch
  have hinstr : s.fetchInstr = .error e := by
    rw [State.fetchInstr, State.fetchBytes_eq_words, hw]
    cases hone : hasOperandWord w <;> simp [bytesOfWord, decode, hone, hdec]
  rw [step_fetch hrun hpending, fetchExecute_eq, hinstr, hw]

/-- A 1 in the seven zero bits of LDA (R97). -/
theorem faultsAsReserved_lda (d : Reg) {z : BitVec 7} (hz : z ≠ 0#7) : FaultsAsReserved (encI7 0b00010#5 d z) :=
  faultsAsReserved_of_decodeWord (e := .nonzeroReservedBits 0b00010#5) fun operand => by
    simp [decodeWord_lda, needZero, Config.strictReservedFields, hz]

theorem needIndex_wrong {w : Word} {index : Reg} (i : Instr) (h : reg2 w ≠ index) :
    needIndex w index i = .error (.wrongIndexRegister (opField w) (r2Field w)) :=
  if_neg h

/-- An index-mode load (opcodes 00011, 00100) with another index field than IP0's, or an index-mode store (00101, 00110)
with another than IP1's (R87, D6). -/
theorem faultsAsReserved_index {op : BitVec 5} {index : Reg}
    (hop : (op, index) ∈ [(0b00011#5, Reg.ip0), (0b00100#5, Reg.ip0), (0b00101#5, Reg.ip1), (0b00110#5, Reg.ip1)])
    (d : Reg) {f : BitVec 4} (hf : f ≠ fieldOfReg index) : FaultsAsReserved (op ++ fieldOfReg d ++ f ++ 0b010#3) := by
  have hindex : reg2 (encRRM op d (regOfField f) 0b010#3) ≠ index := by
    rw [reg2, r2Field_encRRM, regOfField_fieldOfReg]
    exact fun h => hf (h ▸ rfl)
  refine faultsAsReserved_of_decodeWord (w := encRRM op d (regOfField f) 0b010#3) (e := .wrongIndexRegister op f)
    fun operand => ?_
  simp only [List.mem_cons, Prod.mk.injEq, List.not_mem_nil, or_false] at hop
  rcases hop with ⟨rfl, rfl⟩ | ⟨rfl, rfl⟩ | ⟨rfl, rfl⟩ | ⟨rfl, rfl⟩
  · simp [decodeWord_ldb, decodeLdb, needIndex_wrong _ hindex]
  · simp [decodeWord_ldw, decodeLdw, needIndex_wrong _ hindex]
  · simp [decodeWord_stb, decodeStb, needIndex_wrong _ hindex]
  · simp [decodeWord_stw, decodeStw, needIndex_wrong _ hindex]

end Sys2Proof.Machine

/-! PROOF. The loads and stores: what LDA, LDB, LDW, STB and STW leave in registers and memory, mode by mode. -/

namespace Sys2Proof.Machine

/-- Settles O26: the operand word is read by `decode_lda`, and `pc` steps over it before the destination is written. -/
theorem addressLoad : Obligations.AddressLoad := by
  intro d v s
  exact ⟨decode_lda d v, fun z hz => faultsAsReserved_lda d hz, (s.setPc (s.pc + 2)).setReg d v, rfl, by simp, rfl,
    (s.keeps_setPc _).trans (State.keeps_setReg _ d v)⟩

/-! ## The destination of a load -/

/-- The destination of a byte load: its high byte is the one the pointer update left (R12, R143). -/
theorem State.reg_loadByte_same (s : State) (m : Mode) (d a : Reg) :
    (s.loadByte m d a).reg d = wordOfBytes (hob ((s.bump m a 1).reg d)) (s.readByte (s.ea m a)) := by
  rw [State.reg_loadByte, if_pos rfl]

theorem State.reg_loadWord_same (s : State) (m : Mode) (d a : Reg) :
    (s.loadWord m d a).reg d = s.readWord (s.ea m a) := by
  rw [State.reg_loadWord, if_pos rfl]

theorem State.reg_bump_index (s : State) (a : Reg) (n : Word) : (s.bump .index a n).reg a = s.reg a + n := by
  rw [State.reg_bump, if_pos ⟨rfl, rfl⟩]

theorem State.reg_bump_index_ne (s : State) {a r : Reg} (n : Word) (h : r ≠ a) :
    (s.bump .index a n).reg r = s.reg r := by
  rw [State.reg_bump, if_neg fun hr => h hr.2]

/-- Index mode into another register than the index register: both are written (R118). -/
theorem State.reg_loadByte_index (s : State) {d a : Reg} (h : d ≠ a) :
    (s.loadByte .index d a).reg d = wordOfBytes (hob (s.reg d)) (s.readByte (s.reg a)) ∧
      (s.loadByte .index d a).reg a = s.reg a + 1 := by
  rw [State.reg_loadByte_same, State.reg_bump_index_ne _ _ h, State.reg_loadByte, if_neg h.symm, State.reg_bump_index]
  exact ⟨rfl, rfl⟩

/-- Settles O27: each mode is the byte load of its mode; LDB into IP0 itself keeps the high byte of the updated pointer. -/
theorem byteLoads : Obligations.ByteLoads := by
  refine ⟨fun d a s => ?_, fun d a s => ?_, fun d s => ?_, fun d a s => ?_⟩
  · exact ⟨encodes_of_encode (i := .ldbReg d a) rfl rfl, s.loadByte .register d a, rfl, s.reg_loadByte_same .register d a,
      s.keeps_loadByte .register d a⟩
  · exact ⟨encodes_of_encode (i := .ldbBase d a) rfl rfl, s.loadByte .base d a, rfl, s.reg_loadByte_same .base d a,
      s.keeps_loadByte .base d a⟩
  · refine ⟨encodes_of_encode (i := .ldbIdx d) rfl rfl, fun f hf => faultsAsReserved_index (by decide) d hf,
      s.loadByte .index d Reg.ip0, rfl, ?_, s.keeps_loadByte .index d Reg.ip0⟩
    split
    · next hd =>
      rw [hd, State.reg_loadByte_same, State.reg_bump_index]
      rfl
    · next hd => exact s.reg_loadByte_index hd
  · exact ⟨encodes_of_encode (i := .ldbInd d a) rfl rfl, s.loadByte .indirect d a, rfl, s.reg_loadByte_same .indirect d a,
      s.keeps_loadByte .indirect d a⟩

/-- Settles O28: each mode is the word load of its mode, which overwrites the updated pointer when it is the destination. -/
theorem wordLoads : Obligations.WordLoads := by
  refine ⟨fun d a s => ?_, fun d a s => ?_, fun d s => ?_, fun d a s => ?_⟩
  · exact ⟨encodes_of_encode (i := .ldwReg d a) rfl rfl, s.loadWord .register d a, rfl, s.reg_loadWord_same .register d a,
      s.keeps_loadWord .register d a⟩
  · exact ⟨encodes_of_encode (i := .ldwBase d a) rfl rfl, s.loadWord .base d a, rfl, s.reg_loadWord_same .base d a,
      s.keeps_loadWord .base d a⟩
  · refine ⟨encodes_of_encode (i := .ldwIdx d) rfl rfl, fun f hf => faultsAsReserved_index (by decide) d hf,
      s.loadWord .index d Reg.ip0, rfl, s.reg_loadWord_same .index d Reg.ip0, fun hd => ?_,
      s.keeps_loadWord .index d Reg.ip0⟩
    rw [State.reg_loadWord, if_neg (Ne.symm hd), State.reg_bump_index]
  · exact ⟨encodes_of_encode (i := .ldwInd d a) rfl rfl, s.loadWord .indirect d a, rfl, s.reg_loadWord_same .indirect d a,
      s.keeps_loadWord .indirect d a⟩

/-! ## The bytes of a store -/

theorem State.readByte_storeByte_same (s : State) (m : Mode) (r a : Reg) :
    (s.storeByte m r a).readByte (s.ea m a) = lob (s.reg r) := by
  rw [State.readByte_storeByte, if_pos rfl]

/-- Big endian: the high-order byte at the effective address, the low-order byte behind it (R51). -/
theorem State.readByte_storeWord_same (s : State) (m : Mode) (r a : Reg) :
    (s.storeWord m r a).readByte (s.ea m a) = hob (s.reg r) ∧
      (s.storeWord m r a).readByte (s.ea m a + 1) = lob (s.reg r) := by
  rw [State.readByte_storeWord, State.readByte_storeWord, if_neg (word_add_one_ne _).symm, if_pos rfl, if_pos rfl]
  exact ⟨rfl, rfl⟩

/-- Settles O29: each mode is the byte store of its mode, made before the pointer update. -/
theorem byteStores : Obligations.ByteStores := by
  refine ⟨fun r a s => ?_, fun r a s => ?_, fun r s => ?_, fun r a s => ?_⟩
  · exact ⟨encodes_of_encode (i := .stbReg r a) rfl rfl, s.storeByte .register r a, rfl,
      s.readByte_storeByte_same .register r a, s.keeps_storeByte .register r a⟩
  · exact ⟨encodes_of_encode (i := .stbBase r a) rfl rfl, s.storeByte .base r a, rfl,
      s.readByte_storeByte_same .base r a, s.keeps_storeByte .base r a⟩
  · refine ⟨encodes_of_encode (i := .stbIdx r) rfl rfl, fun f hf => faultsAsReserved_index (by decide) r hf,
      s.storeByte .index r Reg.ip1, rfl, s.readByte_storeByte_same .index r Reg.ip1, ?_,
      s.keeps_storeByte .index r Reg.ip1⟩
    rw [State.reg_storeByte, State.reg_bump_index]
  · exact ⟨encodes_of_encode (i := .stbInd r a) rfl rfl, s.storeByte .indirect r a, rfl,
      s.readByte_storeByte_same .indirect r a, s.keeps_storeByte .indirect r a⟩

/-- Settles O30: each mode is the word store of its mode, made before the pointer update. -/
theorem wordStores : Obligations.WordStores := by
  refine ⟨fun r a s => ?_, fun r a s => ?_, fun r s => ?_, fun r a s => ?_⟩
  · obtain ⟨hhigh, hlow⟩ := s.readByte_storeWord_same .register r a
    exact ⟨encodes_of_encode (i := .stwReg r a) rfl rfl, _, rfl, hhigh, hlow, s.keeps_storeWord .register r a⟩
  · obtain ⟨hhigh, hlow⟩ := s.readByte_storeWord_same .base r a
    exact ⟨encodes_of_encode (i := .stwBase r a) rfl rfl, _, rfl, hhigh, hlow, s.keeps_storeWord .base r a⟩
  · obtain ⟨hhigh, hlow⟩ := s.readByte_storeWord_same .index r Reg.ip1
    refine ⟨encodes_of_encode (i := .stwIdx r) rfl rfl, fun f hf => faultsAsReserved_index (by decide) r hf, _, rfl, hhigh,
      hlow, ?_, s.keeps_storeWord .index r Reg.ip1⟩
    rw [State.reg_storeWord, State.reg_bump_index]
  · obtain ⟨hhigh, hlow⟩ := s.readByte_storeWord_same .indirect r a
    exact ⟨encodes_of_encode (i := .stwInd r a) rfl rfl, _, rfl, hhigh, hlow, s.keeps_storeWord .indirect r a⟩

end Sys2Proof.Machine

/-! PROOF. The immediate load and the move, the stack instructions, and the calls and returns over them: a push leaves its
word big endian below the old SP, a pop reads it there, and word transfers are their byte steps. -/

namespace Sys2Proof.Machine

/-- Settles O25: the immediate keeps its value as a signed number when it is extended to a word. -/
theorem immediateLoadAndMove : Obligations.ImmediateLoadAndMove := by
  refine ⟨fun d imm s => ?_, fun d r s => ?_⟩
  · refine ⟨encodes_of_encode (i := .ldi d imm) rfl rfl, s.setReg d (sext16 imm), rfl, ?_, s.keeps_setReg d _⟩
    rw [State.reg_setReg, if_pos rfl, sext16, BitVec.toInt_signExtend_of_le (by decide)]
  · refine ⟨encodes_of_encode (i := .mov d r) rfl rfl, s.setReg d (s.reg r), rfl, ?_, s.keeps_setReg d _⟩
    rw [State.reg_setReg, if_pos rfl]

/-! ## A 1 in the must-be-zero bits (R97) -/

/-- A word whose decoding asks for zero bits that are not zero faults under the default `STRICT_RESERVED_FIELDS` (R99). -/
theorem faultsAsReserved_of_needZero {w : Word} {n : Nat} {bits : BitVec n} {i : Instr} (hbits : bits ≠ 0#n)
    (hdec : ∀ operand, decodeWord Config.strictReservedFields w operand =
      needZero Config.strictReservedFields w bits i) : FaultsAsReserved w :=
  faultsAsReserved_of_decodeWord (e := .nonzeroReservedBits (opField w)) fun operand => by
    rw [hdec operand, needZero, if_pos (by simpa [Config.strictReservedFields] using hbits)]

/-- The `r2` field of the four stack instructions (R87). -/
theorem faultsAsReserved_stack {m : BitVec 3} (hm : m ∈ [0b000#3, 0b001#3, 0b010#3, 0b011#3]) (r : Reg) {f : BitVec 4}
    (hf : f ≠ 0#4) : FaultsAsReserved (0b00111#5 ++ fieldOfReg r ++ f ++ m) := by
  change FaultsAsReserved (encRRM 0b00111#5 r (regOfField f) m)
  simp only [List.mem_cons, List.not_mem_nil, or_false] at hm
  rcases hm with rfl | rfl | rfl | rfl
  · exact faultsAsReserved_of_needZero (i := .pushb r) hf fun operand => by simp [decodeWord_stack, decodeStack, reg1]
  · exact faultsAsReserved_of_needZero (i := .popb r) hf fun operand => by simp [decodeWord_stack, decodeStack, reg1]
  · exact faultsAsReserved_of_needZero (i := .pushw r) hf fun operand => by simp [decodeWord_stack, decodeStack, reg1]
  · exact faultsAsReserved_of_needZero (i := .popw r) hf fun operand => by simp [decodeWord_stack, decodeStack, reg1]

/-- The seven low bits of JSR (R82). -/
theorem faultsAsReserved_jsr (r : Reg) {z : BitVec 7} (hz : z ≠ 0#7) : FaultsAsReserved (encI7 0b10100#5 r z) :=
  faultsAsReserved_of_needZero (i := .jsr r) hz fun operand => by simp [decodeWord_jsr, reg1]

/-- The ten zero bits of RET and RETI and the bit below them, which tells the two apart, are one field of format `Z`. -/
theorem encI11_append (op : BitVec 5) (z : BitVec 10) (f : BitVec 1) : op ++ z ++ f = encI11 op (z ++ f) := by
  rw [encI11, BitVec.append_assoc]; rfl

/-- Bits 10:1 of RET and RETI (R90). -/
theorem faultsAsReserved_return {z : BitVec 10} (f : BitVec 1) (hz : z ≠ 0#10) :
    FaultsAsReserved (0b10111#5 ++ z ++ f) := by
  have hzero : retZeroField (encI11 0b10111#5 (z ++ f)) = z := by
    rw [retZeroField_encI11, BitVec.extractLsb'_append_eq_left]
  have hdir : dirField (encI11 0b10111#5 (z ++ f)) = f := by
    rw [dirField_encI11, BitVec.extractLsb'_append_eq_right]
  rw [encI11_append]
  rcases BitVec.eq_zero_or_eq_one f with rfl | rfl
  · exact faultsAsReserved_of_needZero (i := .ret) hz fun operand => by
      rw [decodeWord_return operand (opField_encI11 _ _), decodeReturn, hdir, hzero]; rfl
  · exact faultsAsReserved_of_needZero (i := .reti) hz fun operand => by
      rw [decodeWord_return operand (opField_encI11 _ _), decodeReturn, hdir, hzero]; rfl

/-! ## The stack -/

/-- The two bytes of the word below an address. -/
theorem wordBytes_sub_two (a : Word) : wordBytes (a - 2) = [a - 2, a - 1] := by
  have hlow : a - 2 + 1 = a - 1 := by bv_omega
  rw [wordBytes, hlow]

theorem State.reg_sp_pushWord (s : State) (v : Word) : (s.pushWord v).reg Reg.sp = s.reg Reg.sp - 2 := by
  rw [State.reg_pushWord, if_pos rfl]

/-- A pushed word, big endian at the new SP (R51, R140). -/
theorem State.readByte_pushWord_same (s : State) (v : Word) :
    (s.pushWord v).readByte (s.reg Reg.sp - 2) = hob v ∧ (s.pushWord v).readByte (s.reg Reg.sp - 1) = lob v := by
  have hlow : s.reg Reg.sp - 2 + 1 = s.reg Reg.sp - 1 := by bv_omega
  have hne : s.reg Reg.sp - 2 ≠ s.reg Reg.sp - 1 := by bv_omega
  rw [State.readByte_pushWord, State.readByte_pushWord, hlow, if_neg hne, if_pos rfl, if_pos rfl]
  exact ⟨rfl, rfl⟩

theorem State.reg_sp_dropBytes (s : State) (n : Word) : (s.dropBytes n).reg Reg.sp = s.reg Reg.sp + n := by
  rw [State.reg_dropBytes, if_pos rfl]

theorem State.reg_dropBytes_ne (s : State) (n : Word) {r : Reg} (h : r ≠ Reg.sp) : (s.dropBytes n).reg r = s.reg r := by
  rw [State.reg_dropBytes, if_neg h]

/-- Settles O31: the source is read before SP moves, so a push of SP stores its old value. -/
theorem pushes : Obligations.Pushes := by
  refine ⟨fun r s => ?_, fun r s => ?_⟩
  · refine ⟨encodes_of_encode (i := .pushb r) rfl rfl, fun f hf => faultsAsReserved_stack (by decide) r hf,
      s.pushByte (lob (s.reg r)), rfl, ?_, ?_, s.keeps_pushByte _⟩
    · rw [State.reg_pushByte, if_pos rfl]
    · rw [State.readByte_pushByte, if_pos rfl]
  · obtain ⟨hhigh, hlow⟩ := s.readByte_pushWord_same (s.reg r)
    refine ⟨encodes_of_encode (i := .pushw r) rfl rfl, fun f hf => faultsAsReserved_stack (by decide) r hf,
      s.pushWord (s.reg r), rfl, s.reg_sp_pushWord _, hhigh, hlow, ?_⟩
    rw [← wordBytes_sub_two]
    exact s.keeps_pushWord (s.reg r)

/-- Settles O32: the destination is written last, over the moved SP when it is SP. -/
theorem pops : Obligations.Pops := by
  refine ⟨fun d s => ?_, fun d s => ?_⟩
  · refine ⟨encodes_of_encode (i := .popb d) rfl rfl, fun f hf => faultsAsReserved_stack (by decide) d hf,
      (s.dropBytes 1).setLob d s.topByte, rfl, ?_,
      ((s.keeps_dropBytes 1).trans (State.keeps_setLob _ d _)).mono (by simp) (by simp) (by simp)⟩
    split
    · next hd => rw [hd, State.reg_setLob, if_pos rfl, State.reg_sp_dropBytes]; rfl
    · next hd =>
      rw [State.reg_setLob, if_pos rfl, State.reg_dropBytes_ne _ _ hd, State.reg_setLob, if_neg (Ne.symm hd),
        State.reg_sp_dropBytes]
      exact ⟨rfl, rfl⟩
  · refine ⟨encodes_of_encode (i := .popw d) rfl rfl, fun f hf => faultsAsReserved_stack (by decide) d hf,
      (s.dropBytes 2).setReg d s.topWord, rfl, ?_, fun hd => ?_,
      ((s.keeps_dropBytes 2).trans (State.keeps_setReg _ d _)).mono (by simp) (by simp) (by simp)⟩
    · rw [State.reg_setReg, if_pos rfl]; rfl
    · rw [State.reg_setReg, if_neg (Ne.symm hd), State.reg_sp_dropBytes]

/-- A pop of two bytes undoes a word push's move of SP (R141). -/
theorem State.reg_dropBytes_pushWord (s : State) (v : Word) (q : Reg) : ((s.pushWord v).dropBytes 2).reg q = s.reg q := by
  rw [State.reg_dropBytes, State.reg_sp_pushWord, BitVec.sub_add_cancel, State.reg_pushWord]
  split
  · next hq => rw [hq]
  · rfl

/-- Settles O33: the popped word is the pushed one, `State.topWord_pushWord`, and the pop moves SP back. -/
theorem popReturnsThePushedWord : Obligations.PopReturnsThePushedWord := by
  intro r d s
  refine ⟨s.pushWord (s.reg r), ((s.pushWord (s.reg r)).dropBytes 2).setReg d (s.pushWord (s.reg r)).topWord, rfl, rfl, ?_,
    fun q hq => ?_⟩
  · rw [State.reg_setReg, if_pos rfl, State.topWord_pushWord]
  · rw [State.reg_setReg, if_neg hq, State.reg_dropBytes_pushWord]

/-! ## Word transfers and their byte steps -/

/-- A byte push is its two steps: SP is decremented, then the byte is stored where SP points (R131). -/
theorem State.pushByte_eq_steps (s : State) (b : Byte) :
    s.pushByte b = (s.setReg Reg.sp (s.reg Reg.sp - 1)).writeByte ((s.setReg Reg.sp (s.reg Reg.sp - 1)).reg Reg.sp) b := by
  rw [State.reg_setReg, if_pos rfl, State.pushByte]

theorem State.reg_pushByte_ne (s : State) (b : Byte) {r : Reg} (h : r ≠ Reg.sp) : (s.pushByte b).reg r = s.reg r := by
  rw [State.reg_pushByte, if_neg h]

/-- A word push is the push of its low byte and then of its high byte (R140). -/
theorem State.pushWord_eq_pushBytes (s : State) (v : Word) :
    (∀ q, (s.pushWord v).reg q = ((s.pushByte (lob v)).pushByte (hob v)).reg q) ∧
      ∀ a, (s.pushWord v).readByte a = ((s.pushByte (lob v)).pushByte (hob v)).readByte a := by
  have hsp : (s.pushByte (lob v)).reg Reg.sp = s.reg Reg.sp - 1 := by rw [State.reg_pushByte, if_pos rfl]
  have htwo : s.reg Reg.sp - 1 - 1 = s.reg Reg.sp - 2 := by bv_omega
  have hlow : s.reg Reg.sp - 2 + 1 = s.reg Reg.sp - 1 := by bv_omega
  have hne : s.reg Reg.sp - 1 ≠ s.reg Reg.sp - 2 := by bv_omega
  refine ⟨fun q => ?_, fun a => ?_⟩
  · rw [State.reg_pushWord, State.reg_pushByte, hsp, htwo, State.reg_pushByte]
    split <;> rfl
  · rw [State.readByte_pushWord, State.readByte_pushByte, hsp, htwo, hlow, State.readByte_pushByte]
    by_cases ha : a = s.reg Reg.sp - 1
    · rw [if_pos ha, if_neg (ha ▸ hne), if_pos ha]
    · rw [if_neg ha, if_neg ha]

/-- Two writes of one register: the second stands. -/
theorem State.setReg_setReg (s : State) (d : Reg) (v w : Word) : (s.setReg d v).setReg d w = s.setReg d w := by
  simp [State.setReg]

theorem State.setReg_comm (s : State) {d e : Reg} (h : d ≠ e) (v w : Word) :
    (s.setReg d v).setReg e w = (s.setReg e w).setReg d v := by
  rw [State.setReg, State.setReg, State.setReg, State.setReg, Vector.set_comm v w (Fin.val_ne_of_ne h)]

/-- Two registers written in turn, twice each: their last values stand. -/
theorem State.setReg_alternating (s : State) {d e : Reg} (h : d ≠ e) (v v' w w' : Word) :
    (((s.setReg d v).setReg e w).setReg d v').setReg e w' = (s.setReg e w').setReg d v' := by
  rw [State.setReg_comm (s.setReg d v) h.symm, State.setReg_setReg, State.setReg_setReg, State.setReg_comm s h]

/-- Settles O34: a word push is two byte pushes, whose printed steps read the register afresh to the same value unless it is
SP; index-mode LDW reads both its bytes as the steps do, and its steps write two registers in turn. -/
theorem wordTransfersAreTheirByteSteps : Obligations.WordTransfersAreTheirByteSteps := by
  refine ⟨fun r s hr => ⟨s.pushWord (s.reg r), rfl, ?_⟩, fun r s => ⟨s.pushWord (s.reg r), rfl, ?_⟩, fun d s hd => ?_⟩
  · have hfirst : (s.setReg 15 (s.reg 15 - 1)).reg r = s.reg r := by rw [State.reg_setReg, if_neg hr]
    have hsecond (b : Byte) : ((s.pushByte b).setReg 15 ((s.pushByte b).reg 15 - 1)).reg r = s.reg r := by
      rw [State.reg_setReg, if_neg hr, State.reg_pushByte_ne s b hr]
    simp only [hfirst, ← State.pushByte_eq_steps, hsecond]
    exact s.pushWord_eq_pushBytes (s.reg r)
  · simp only [← State.pushByte_eq_steps]
    exact s.pushWord_eq_pushBytes (s.reg r)
  · intro s1 s2 s3 s4
    have hmoved : s2.reg 12 = s.reg 12 + 1 := by simp [s2, s1, hd.symm]
    have hmovedTwice : s3.reg 12 + 1 = s.reg 12 + 2 := by
      rw [State.reg_setReg, if_neg hd.symm, hmoved]
      bv_omega
    have hword : wordOfBytes (hob (s2.reg d)) (s2.readByte (s2.reg 12)) = s.readWord (s.reg 12) := by
      rw [hmoved]
      simp [s2, s1, hd, State.readWord]
    calc exec (.ldwIdx d) s
      _ = .next ((s.setReg 12 (s3.reg 12 + 1)).setReg d (wordOfBytes (hob (s2.reg d)) (s2.readByte (s2.reg 12)))) := by
        rw [hmovedTwice, hword]; rfl
      _ = .next s4 := by rw [← State.setReg_alternating s hd]

/-! ## Calls and returns -/

/-- Settles O45: the call is a word push of the return address, its target the register's value before the push. -/
theorem subroutineCall : Obligations.SubroutineCall := by
  intro r s
  obtain ⟨hhigh, hlow⟩ := s.readByte_pushWord_same s.pc
  refine ⟨encodes_of_encode (i := .jsr r) rfl rfl, fun z hz => faultsAsReserved_jsr r hz, s.call r, rfl, rfl,
    s.reg_sp_pushWord s.pc, hhigh, hlow, ?_⟩
  rw [← wordBytes_sub_two]
  exact s.keeps_call r

/-- RETI pops two words, four bytes in all (R189). -/
theorem State.reg_sp_leaveVector (s : State) : s.leaveVector.reg Reg.sp = s.reg Reg.sp + 4 := by
  have hpops : ((s.dropBytes 2).dropBytes 2).reg Reg.sp = s.reg Reg.sp + 4 := by
    rw [State.reg_sp_dropBytes, State.reg_sp_dropBytes]
    bv_omega
  rw [State.leaveVector_eq]
  exact hpops

/-- RETI's new `pc` is the second word it pops (R189). -/
theorem State.pc_leaveVector (s : State) :
    s.leaveVector.pc = wordOfBytes (s.readByte (s.reg Reg.sp + 2)) (s.readByte (s.reg Reg.sp + 3)) := by
  have hnext : s.reg Reg.sp + 2 + 1 = s.reg Reg.sp + 3 := by bv_omega
  rw [State.leaveVector_eq, ← hnext, State.readWord]

/-- RETI's new SW is the first word it pops, without the reserved bits (R29, R189). -/
theorem State.sw_leaveVector (s : State) : s.leaveVector.sw = s.topWord &&& 0xF0FF#16 := by
  rw [State.leaveVector_eq]

/-- Settles O48: RET is one word pop, RETI two in turn, the second from two bytes up. -/
theorem returns : Obligations.Returns := by
  refine ⟨fun s => ?_, fun s => ?_⟩
  · exact ⟨encodes_of_encode (i := .ret) rfl rfl, fun z f hz => faultsAsReserved_return f hz,
      (s.dropBytes 2).setPc s.topWord, rfl, rfl, s.reg_sp_dropBytes 2, (s.keeps_dropBytes 2).trans (State.keeps_setPc _ _)⟩
  · exact ⟨encodes_of_encode (i := .reti) rfl rfl, s.leaveVector, rfl, s.sw_leaveVector, s.pc_leaveVector,
      s.reg_sp_leaveVector, s.keeps_leaveVector⟩

end Sys2Proof.Machine

/-! PROOF. The control instructions: signed offsets added to `pc`, branches and calls under a condition, the frame of TRAP,
and the returns that undo JSR and TRAP; and which instructions write SW. -/

namespace Sys2Proof.Machine

/-! ## PC-relative targets (R193) -/

/-- The extended offset is added as a signed number, modulo 65536. -/
theorem toNat_add_sext16 {n : Nat} (hn : n ≤ 16) (p : Word) (off : BitVec n) :
    ((p + sext16 off).toNat : Int) = ((p.toNat : Int) + off.toInt) % 65536 := by
  rw [← BitVec.toInt_signExtend_of_le hn, ← sext16, BitVec.toInt_eq_toNat_cond, BitVec.toNat_add]
  split <;> omega

/-- A conditional branch adds its offset when the flag is 1, and 0 when it is 0 (R183). -/
theorem State.pc_branchIf_relative {n : Nat} (hn : n ≤ 16) (s : State) (cc : Cond) (off : BitVec n) :
    ((s.branchIf cc (s.relative off)).pc.toNat : Int) =
      ((s.pc.toNat : Int) + (if s.cond cc then off.toInt else 0)) % 65536 := by
  rw [State.branchIf_eq]
  split
  · exact toNat_add_sext16 hn s.pc off
  · dsimp only; omega

theorem State.pc_branchIf (s : State) (cc : Cond) (target : Word) :
    (s.branchIf cc target).pc = if s.cond cc then target else s.pc := by
  rw [State.branchIf_eq]

/-! ## A 1 in the must-be-zero bits (R97) -/

theorem faultsAsReserved_brReg (r : Reg) {z : BitVec 7} (hz : z ≠ 0#7) : FaultsAsReserved (encI7 0b10001#5 r z) :=
  faultsAsReserved_of_needZero (i := .brReg r) hz fun operand => by simp [decodeWord_brReg, reg1]

/-- The five zero bits of format `RC` and the condition below them are the seven low bits of format `I7`. -/
theorem encI7_append (op : BitVec 5) (r : Reg) (z : BitVec 5) (cc : BitVec 2) :
    op ++ fieldOfReg r ++ z ++ cc = encI7 op r (z ++ cc) := by
  rw [encI7, BitVec.append_assoc]; rfl

theorem rcZeroField_encI7 (op : BitVec 5) (r : Reg) (v : BitVec 7) : rcZeroField (encI7 op r v) = v.extractLsb' 2 5 := by
  apply BitVec.eq_of_getLsbD_eq
  intro i hi
  simp only [rcZeroField, encI7, BitVec.getLsbD_append, BitVec.getLsbD_extractLsb']
  interval_cases i <;> simp

/-- Every condition of the conditional long branches asks for the same zero bits. -/
theorem decodeBranchReg_needZero (strict : Bool) (w : Word) :
    ∃ i, decodeBranchReg strict w = needZero strict w (rcZeroField w) i := by
  unfold decodeBranchReg
  split <;> exact ⟨_, rfl⟩

/-- Every condition of the conditional calls asks for the same zero bits. -/
theorem decodeCallCond_needZero (strict : Bool) (w : Word) :
    ∃ i, decodeCallCond strict w = needZero strict w (rcZeroField w) i := by
  unfold decodeCallCond
  split <;> exact ⟨_, rfl⟩

/-- Bits 6:2 of the conditional long branches and the conditional calls, whatever the condition. -/
theorem faultsAsReserved_rc {op : BitVec 5} (hop : op ∈ [0b10011#5, 0b10101#5]) (r : Reg) {z : BitVec 5} (cc : BitVec 2)
    (hz : z ≠ 0#5) : FaultsAsReserved (op ++ fieldOfReg r ++ z ++ cc) := by
  rw [encI7_append]
  have hzero : rcZeroField (encI7 op r (z ++ cc)) ≠ 0#5 := by
    rwa [rcZeroField_encI7, BitVec.extractLsb'_append_eq_left]
  simp only [List.mem_cons, List.not_mem_nil, or_false] at hop
  rcases hop with rfl | rfl
  · obtain ⟨i, hi⟩ := decodeBranchReg_needZero Config.strictReservedFields (encI7 0b10011#5 r (z ++ cc))
    exact faultsAsReserved_of_needZero hzero fun operand => by rw [decodeWord_branchReg operand (opField_encI7 ..), hi]
  · obtain ⟨i, hi⟩ := decodeCallCond_needZero Config.strictReservedFields (encI7 0b10101#5 r (z ++ cc))
    exact faultsAsReserved_of_needZero hzero fun operand => by rw [decodeWord_callCond operand (opField_encI7 ..), hi]

theorem trapZeroField_encI11 (op : BitVec 5) (v : BitVec 11) : trapZeroField (encI11 op v) = v.extractLsb' 0 5 := by
  apply BitVec.eq_of_getLsbD_eq
  intro i hi
  simp only [trapZeroField, encI11, BitVec.getLsbD_append, BitVec.getLsbD_extractLsb']
  interval_cases i <;> simp

/-- Bits 4:0 of TRAP. -/
theorem faultsAsReserved_trap (v : BitVec 6) {z : BitVec 5} (hz : z ≠ 0#5) : FaultsAsReserved (0b10110#5 ++ v ++ z) := by
  have hword : 0b10110#5 ++ v ++ z = encI11 0b10110#5 (v ++ z) := by rw [encI11, BitVec.append_assoc]; rfl
  have hzero : trapZeroField (encI11 0b10110#5 (v ++ z)) ≠ 0#5 := by
    rwa [trapZeroField_encI11, BitVec.extractLsb'_append_eq_right]
  rw [hword]
  exact faultsAsReserved_of_needZero hzero fun operand => decodeWord_trap operand (opField_encI11 ..)

/-! ## Branches -/

/-- Settles O42: both forms are one write of `pc`. -/
theorem unconditionalBranches : Obligations.UnconditionalBranches := by
  refine ⟨fun off s => ?_, fun r s => ?_⟩
  · exact ⟨encodes_of_encode (i := .brImm off) rfl rfl, s.setPc (s.relative off), rfl,
      toNat_add_sext16 (by decide) s.pc off, s.keeps_setPc _⟩
  · exact ⟨encodes_of_encode (i := .brReg r) rfl rfl, fun z hz => faultsAsReserved_brReg r hz, s.setPc (s.reg r), rfl, rfl,
      s.keeps_setPc _⟩

/-- Settles O43: each flag's branch is `State.branchIf` of its condition. -/
theorem conditionalLocalBranches : Obligations.ConditionalLocalBranches := by
  intro off s
  have hpc (cc : Cond) := s.pc_branchIf_relative (by decide) cc off
  exact ⟨⟨encodes_of_encode (i := .brnImm off) rfl rfl, _, rfl, hpc .n, s.keeps_branchIf .n _⟩,
    ⟨encodes_of_encode (i := .brzImm off) rfl rfl, _, rfl, hpc .z, s.keeps_branchIf .z _⟩,
    ⟨encodes_of_encode (i := .brcImm off) rfl rfl, _, rfl, hpc .c, s.keeps_branchIf .c _⟩,
    ⟨encodes_of_encode (i := .broImm off) rfl rfl, _, rfl, hpc .o, s.keeps_branchIf .o _⟩⟩

/-- Settles O44: each flag's branch is `State.branchIf` of its condition. -/
theorem conditionalLongBranches : Obligations.ConditionalLongBranches := by
  intro r s
  have hpc (cc : Cond) := s.pc_branchIf cc (s.reg r)
  exact ⟨fun z cc hz => faultsAsReserved_rc (by decide) r cc hz,
    ⟨encodes_of_encode (i := .brnReg r) rfl rfl, _, rfl, hpc .n, s.keeps_branchIf .n _⟩,
    ⟨encodes_of_encode (i := .brzReg r) rfl rfl, _, rfl, hpc .z, s.keeps_branchIf .z _⟩,
    ⟨encodes_of_encode (i := .brcReg r) rfl rfl, _, rfl, hpc .c, s.keeps_branchIf .c _⟩,
    ⟨encodes_of_encode (i := .broReg r) rfl rfl, _, rfl, hpc .o, s.keeps_branchIf .o _⟩⟩

/-! ## Conditional calls -/

/-- A conditional call is JSR when its flag is 1, and leaves everything when it is 0 (R186). -/
theorem State.callIf_jsr_or_keeps (s : State) (cc : Cond) (r : Reg) :
    if s.cond cc then exec (.jsr r) s = .next (s.callIf cc r) else s.Keeps (s.callIf cc r) [] [] [] := by
  rw [State.callIf_eq]
  split
  · rfl
  · exact .refl s

/-- Settles O46: each flag's call is `State.callIf` of its condition. -/
theorem conditionalCalls : Obligations.ConditionalCalls := by
  intro r s
  have hcall (cc : Cond) := s.callIf_jsr_or_keeps cc r
  exact ⟨fun z cc hz => faultsAsReserved_rc (by decide) r cc hz,
    ⟨encodes_of_encode (i := .jsrn r) rfl rfl, _, rfl, hcall .n⟩,
    ⟨encodes_of_encode (i := .jsrz r) rfl rfl, _, rfl, hcall .z⟩,
    ⟨encodes_of_encode (i := .jsrc r) rfl rfl, _, rfl, hcall .c⟩,
    ⟨encodes_of_encode (i := .jsro r) rfl rfl, _, rfl, hcall .o⟩⟩

/-! ## The frame of a trap or an interrupt (R265) -/

/-- The four bytes of the frame below an address, the lowest first. -/
def frameBytes (a : Word) : List Word := [a - 4, a - 3, a - 2, a - 1]

/-- The frame is the word of `pc` and, below it, the word of SW. -/
theorem wordBytes_subset_frameBytes (a : Word) : wordBytes (a - 2) ++ wordBytes (a - 4) ⊆ frameBytes a := by
  have hsw : a - 4 + 1 = a - 3 := by bv_omega
  rw [wordBytes_sub_two, wordBytes, hsw, frameBytes]
  simp

/-- The reserved bits of SW are in its high byte (R27). -/
theorem State.lob_swValue (s : State) : lob s.swValue = lob s.sw := by
  apply BitVec.eq_of_getLsbD_eq
  intro i hi
  simp only [lob, State.swValue, BitVec.getLsbD_extractLsb', BitVec.getLsbD_and]
  interval_cases i <;> simp

/-- SW is the value it is read as when its reserved bits are 0 (R29). -/
theorem State.sw_and_eq_self {s : State} (h : s.sw.extractLsb' 8 4 = 0#4) : s.sw &&& 0xF0FF#16 = s.sw := by
  have hbit (k : Nat) (hk : k < 4) : s.sw.getLsbD (8 + k) = false := by
    simpa [hk] using congrArg (fun b : BitVec 4 => b.getLsbD k) h
  have h8 := hbit 0
  have h9 := hbit 1
  have h10 := hbit 2
  have h11 := hbit 3
  apply BitVec.eq_of_getLsbD_eq
  intro i hi
  rw [BitVec.getLsbD_and]
  interval_cases i <;> simp_all

theorem State.reg_sp_pushFrame (s : State) : s.pushFrame.reg Reg.sp = s.reg Reg.sp - 4 := by
  rw [State.reg_pushFrame, if_pos rfl]
  bv_omega

theorem State.reg_pushFrame_ne (s : State) {r : Reg} (h : r ≠ Reg.sp) : s.pushFrame.reg r = s.reg r := by
  rw [State.reg_pushFrame, if_neg h]

/-- The frame byte by byte: SW with its reserved bits 0, and the return address above it. -/
theorem State.readByte_pushFrame_same (s : State) :
    s.pushFrame.readByte (s.reg Reg.sp - 4) = hob s.swValue ∧ s.pushFrame.readByte (s.reg Reg.sp - 3) = lob s.swValue ∧
      s.pushFrame.readByte (s.reg Reg.sp - 2) = hob s.pc ∧ s.pushFrame.readByte (s.reg Reg.sp - 1) = lob s.pc := by
  simp [State.readByte_pushFrame]

/-- Settles O47: TRAP is the shared entry, which pushes the frame and keeps SW; no offset leaves the 64 bytes around
0x2100, so none wraps. -/
theorem trapEntersTheVectorTable : Obligations.TrapEntersTheVectorTable := by
  intro v s
  obtain ⟨hswHigh, hswLow, hpcHigh, hpcLow⟩ := s.readByte_pushFrame_same
  have htarget : ((ivtBase + sext16 v).toNat : Int) = 0x2100 + v.toInt := by
    have hlow := v.le_toInt
    have hhigh := v.toInt_lt
    rw [toNat_add_sext16 (by decide), ivtBase, BitVec.toNat_ofNat]
    omega
  exact ⟨encodes_of_encode (i := .trap v) rfl rfl, fun z hz => faultsAsReserved_trap v hz,
    s.enterVector (ivtBase + sext16 v) false, rfl, htarget, s.reg_sp_pushFrame, hswHigh, s.lob_swValue ▸ hswLow, hpcHigh,
    hpcLow, (s.keeps_enterVector _).mono (by simp) (wordBytes_subset_frameBytes _) (by simp)⟩

/-! ## Returns undo their entries (R192, R263) -/

/-- The return takes the frame off the stack again: every register is as before the entry. -/
theorem State.reg_leaveVector_enterVector (s : State) (entry : Word) (r : Reg) :
    (s.enterVector entry false).leaveVector.reg r = s.reg r := by
  by_cases hr : r = Reg.sp
  · calc (s.enterVector entry false).leaveVector.reg r
      _ = s.pushFrame.reg Reg.sp + 4 := by rw [hr, State.reg_sp_leaveVector]; rfl
      _ = s.reg r := by rw [State.reg_sp_pushFrame, BitVec.sub_add_cancel, hr]
  · rw [(State.keeps_leaveVector _).regs r (by simpa using hr)]
    exact s.reg_pushFrame_ne hr

/-- The second word the return pops is the frame's return address. -/
theorem State.pc_leaveVector_enterVector (s : State) (entry : Word) :
    (s.enterVector entry false).leaveVector.pc = s.pc := by
  have hhigh : s.reg Reg.sp - 4 + 2 = s.reg Reg.sp - 2 := by bv_omega
  have hlow : s.reg Reg.sp - 4 + 3 = s.reg Reg.sp - 1 := by bv_omega
  obtain ⟨-, -, hpcHigh, hpcLow⟩ := s.readByte_pushFrame_same
  calc (s.enterVector entry false).leaveVector.pc
    _ = wordOfBytes (s.pushFrame.readByte (s.pushFrame.reg Reg.sp + 2))
          (s.pushFrame.readByte (s.pushFrame.reg Reg.sp + 3)) := State.pc_leaveVector _
    _ = wordOfBytes (hob s.pc) (lob s.pc) := by rw [State.reg_sp_pushFrame, hhigh, hlow, hpcHigh, hpcLow]
    _ = s.pc := wordOfBytes_hob_lob s.pc

/-- The first word the return pops is the frame's SW, in which no bit was lost. -/
theorem State.sw_leaveVector_enterVector {s : State} (h : s.sw.extractLsb' 8 4 = 0#4) (entry : Word) :
    (s.enterVector entry false).leaveVector.sw = s.sw := by
  have hpopped : (s.enterVector entry false).topWord = s.swValue := State.topWord_pushWord (s.pushWord s.pc) s.swValue
  rw [State.sw_leaveVector, hpopped, State.swValue, State.sw_and_eq_self h, State.sw_and_eq_self h]

/-- An entry and the return from it keep everything but the frame's bytes. -/
theorem State.keeps_leaveVector_enterVector {s : State} (h : s.sw.extractLsb' 8 4 = 0#4) (entry : Word) :
    s.Keeps (s.enterVector entry false).leaveVector [] (frameBytes (s.reg Reg.sp)) [] := by
  have hframe : s.Keeps (s.enterVector entry false).leaveVector [Reg.sp] (frameBytes (s.reg Reg.sp)) [.pc, .sw] :=
    ((s.keeps_enterVector entry).trans (State.keeps_leaveVector _)).mono (by simp)
      (by simpa using wordBytes_subset_frameBytes (s.reg Reg.sp)) (by simp)
  exact {
    regs := fun r _ => s.reg_leaveVector_enterVector entry r
    memory := hframe.memory
    parts := fun p _ => by
      cases p with
      | pc => exact s.pc_leaveVector_enterVector entry
      | sw => exact State.sw_leaveVector_enterVector h entry
      | _ => exact hframe.parts _ (by decide) }

/-- Settles O49: RET pops the word JSR pushed, and RETI the frame TRAP pushed. -/
theorem returnsUndoTheirEntries : Obligations.ReturnsUndoTheirEntries := by
  refine ⟨fun r s => ?_, fun v s hreserved => ?_⟩
  · exact ⟨s.call r, ((s.call r).dropBytes 2).setPc (s.call r).topWord, rfl, rfl, s.topWord_pushWord s.pc,
      s.reg_dropBytes_pushWord s.pc⟩
  · exact ⟨s.enterVector (ivtBase + sext16 v) false, _, rfl, rfl, State.keeps_leaveVector_enterVector hreserved _⟩

/-! ## The writers of SW (R30) -/

theorem sw_mem_changedParts {i : Instr} :
    Part.sw ∈ changedParts i ↔ isAlu i = true ∨ (∃ m, i = .ei m) ∨ (∃ m, i = .di m) ∨ i = .reti := by
  cases i <;> simp [changedParts, isAlu]

/-- An ALU instruction writes SW through `State.setFlags` only (R150). -/
theorem exec_alu_sw {i : Instr} {s t : State} (halu : isAlu i = true) (h : exec i s = .next t) :
    ∃ f, t.sw = (s.setFlags f).sw := by
  cases i with
  | add | sub | mul | bitAnd | bitOr | bitXor | bitNot | shl | shr => cases h; exact ⟨_, rfl⟩
  | div =>
    obtain ⟨-, rfl⟩ := execDiv_next h
    exact ⟨_, rfl⟩
  | _ => cases halu

/-- A write of the enables keeps the high byte of SW (R231, R232). -/
theorem State.swHigh_setIrqEnables (s : State) (m : BitVec 8) :
    (s.setIrqEnables m).sw.extractLsb' 8 8 = s.sw.extractLsb' 8 8 := by
  rw [State.setIrqEnables_sw, BitVec.extractLsb'_append_eq_left]

/-- Settles O17: the writers are those `changedParts` lists, and the frame tells that every other instruction, and
interrupt entry, keeps SW. -/
theorem writersOfTheStatusWord : Obligations.WritersOfTheStatusWord := by
  refine ⟨fun i s t h => ⟨fun halu => ?_, ?_, ?_, fun halu hei hdi hreti => ?_⟩, fun s t n hn h => ?_⟩
  · obtain ⟨f, hsw⟩ := exec_alu_sw halu h
    rw [hsw, State.swLow_setFlags]
  · rintro (⟨m, rfl⟩ | ⟨m, rfl⟩) <;> cases h <;> exact s.swHigh_setIrqEnables _
  · rintro rfl
    cases h
    exact s.sw_leaveVector
  · refine (exec_keeps h).parts .sw fun hwritten => ?_
    rcases sw_mem_changedParts.mp hwritten with hi | ⟨m, hi⟩ | ⟨m, hi⟩ | hi
    · rw [halu] at hi; cases hi
    · exact hei m hi
    · exact hdi m hi
    · exact hreti hi
  · obtain ⟨-, ⟨k, -, rfl⟩ | ⟨hnone, -⟩⟩ := step_cases h
    · exact (s.keeps_takeInterrupt k).parts .sw (by decide)
    · rw [hn] at hnone; cases hnone

end Sys2Proof.Machine

/-! PROOF. The machine's invariant, clause by clause: every store goes through a write that keeps memory's canonical form, no
writer of SW sets a reserved bit, and a step adds at most one event to the history, at a port of the 64. -/

namespace Sys2Proof.Machine

/-! ## A decoded instruction is well formed (R211) -/

/-- A decoding gives no other instruction than a well-formed one. -/
def GivesWellFormed (r : Except DecodeError Instr) : Prop := ∀ i, r = .ok i → i.WellFormed = true

@[simp] theorem givesWellFormed_ok {i : Instr} : GivesWellFormed (.ok i) ↔ i.WellFormed = true := by
  simp [GivesWellFormed]

@[simp] theorem givesWellFormed_error (e : DecodeError) : GivesWellFormed (.error e) := nofun

@[simp] theorem givesWellFormed_badMode (w : Word) : GivesWellFormed (badMode w) := nofun

@[simp] theorem givesWellFormed_needZero {strict : Bool} {w : Word} {n : Nat} {bits : BitVec n} {i : Instr} :
    GivesWellFormed (needZero strict w bits i) ↔ ¬(strict = true ∧ bits ≠ 0#n) → i.WellFormed = true := by
  simp [GivesWellFormed, needZero_eq_ok]

@[simp] theorem givesWellFormed_needIndex {w : Word} {index : Reg} {i : Instr} :
    GivesWellFormed (needIndex w index i) ↔ reg2 w = index → i.WellFormed = true := by
  simp [GivesWellFormed, needIndex_eq_ok]

/-- IN and OUT name their port in a 6-bit field (R90, R211). -/
theorem givesWellFormed_decodeIo (w : Word) : GivesWellFormed (decodeIo w) := by
  have hport : (port6Field w).toNat < portCount := (port6Field w).isLt
  unfold decodeIo
  split <;> simpa [Instr.WellFormed] using hport

/-- The other decoders of opcodes with several forms give instructions without a port. -/
theorem givesWellFormed_formDecoders (strict : Bool) (w : Word) :
    ∀ r ∈ [decodeLdb w, decodeLdw w, decodeStb w, decodeStw w, decodeStack strict w, decodeShl w, decodeAlu strict w,
      decodeShr w, decodeBranchImm w, decodeBranchReg strict w, decodeCallCond strict w, decodeReturn strict w,
      decodeIrq w], GivesWellFormed r := by
  simp only [List.forall_mem_cons, List.not_mem_nil, false_implies, implies_true, and_true]
  and_intros
  all_goals
    simp only [decodeLdb, decodeLdw, decodeStb, decodeStw, decodeStack, decodeShl, decodeAlu, decodeShr, decodeBranchImm,
      decodeBranchReg, decodeCallCond, decodeReturn, decodeIrq]
    split <;> simp [Instr.WellFormed]

theorem givesWellFormed_decodeWord (strict : Bool) (w operand : Word) : GivesWellFormed (decodeWord strict w operand) := by
  have hforms := givesWellFormed_formDecoders strict w
  simp only [List.forall_mem_cons] at hforms
  unfold decodeWord
  split <;> simp [givesWellFormed_decodeIo, hforms, Instr.WellFormed]

/-- A fetched instruction is well formed (R96, R300). -/
theorem State.fetchInstr_wellFormed {s : State} {i : Instr} (h : s.fetchInstr = .ok i) : i.WellFormed = true := by
  unfold State.fetchInstr at h
  split at h
  · next j rest hdec =>
    cases h
    obtain ⟨b0, b1, more, -, hlong | hshort⟩ := decode_cases hdec
    · obtain ⟨-, b2, b3, -, hword⟩ := hlong
      exact givesWellFormed_decodeWord _ _ _ _ hword
    · obtain ⟨-, -, hword⟩ := hshort
      exact givesWellFormed_decodeWord _ _ _ _ hword
  · cases h

/-! ## The canonical form of memory (R35) -/

theorem State.bump_mem (s : State) (m : Mode) (a : Reg) (n : Word) : (s.bump m a n).mem = s.mem := by
  rw [State.bump_eq]

theorem State.storeByte_wf {s : State} (m : Mode) (r a : Reg) (h : s.mem.wf) : (s.storeByte m r a).mem.wf := by
  rw [State.storeByte, State.bump_mem]
  exact State.writeByte_wf _ _ h

theorem State.storeWord_wf {s : State} (m : Mode) (r a : Reg) (h : s.mem.wf) : (s.storeWord m r a).mem.wf := by
  rw [State.storeWord, State.bump_mem]
  exact State.writeWord_wf _ _ h

theorem State.pushByte_wf {s : State} (b : Byte) (h : s.mem.wf) : (s.pushByte b).mem.wf :=
  State.writeByte_wf _ _ h

theorem State.pushWord_wf {s : State} (v : Word) (h : s.mem.wf) : (s.pushWord v).mem.wf :=
  State.writeWord_wf _ _ h

theorem State.pushFrame_wf {s : State} (h : s.mem.wf) : s.pushFrame.mem.wf :=
  State.pushWord_wf _ (State.pushWord_wf _ h)

theorem State.callIf_wf {s : State} (cc : Cond) (r : Reg) (h : s.mem.wf) : (s.callIf cc r).mem.wf := by
  rw [State.callIf_eq]
  split
  · exact State.pushWord_wf s.pc h
  · exact h

theorem State.branchIf_mem (s : State) (cc : Cond) (target : Word) : (s.branchIf cc target).mem = s.mem := by
  rw [State.branchIf_eq]

/-- Every instruction keeps the canonical form: it stores through the byte and word writes, or not at all (R57). -/
theorem exec_mem_wf {i : Instr} {s t : State} (h : exec i s = .next t) (hwf : s.mem.wf) : t.mem.wf := by
  cases i with
  | stbReg r a | stbBase r a | stbInd r a => cases h; exact State.storeByte_wf _ r a hwf
  | stbIdx r => cases h; exact State.storeByte_wf .index r Reg.ip1 hwf
  | stwReg r a | stwBase r a | stwInd r a => cases h; exact State.storeWord_wf _ r a hwf
  | stwIdx r => cases h; exact State.storeWord_wf .index r Reg.ip1 hwf
  | pushb r => cases h; exact State.pushByte_wf _ hwf
  | pushw r => cases h; exact State.pushWord_wf _ hwf
  | jsr r => cases h; exact State.pushWord_wf s.pc hwf
  | jsrn r | jsrz r | jsrc r | jsro r => cases h; exact State.callIf_wf _ r hwf
  | trap v => cases h; exact State.pushFrame_wf hwf
  | brnImm _ | brzImm _ | brcImm _ | broImm _ | brnReg _ | brzReg _ | brcReg _ | broReg _ =>
    cases h; rwa [State.branchIf_mem]
  | div =>
    obtain ⟨-, rfl⟩ := execDiv_next h
    exact hwf
  | _ => cases h; exact hwf

theorem step_mem_wf {s t : State} (h : step s = .next t) (hwf : s.mem.wf) : t.mem.wf := by
  obtain ⟨-, ⟨n, -, rfl⟩ | ⟨-, i, u, -, hu, rfl⟩⟩ := step_cases h
  · exact State.pushFrame_wf hwf
  · exact exec_mem_wf (s := s.fetched) (t := u) hu hwf

/-! ## The reserved bits of SW (R29) -/

/-- The mask of the reserved bits selects their field, bits 11:8. -/
theorem and_reservedMask_eq_zero_iff {w : Word} : w &&& 0x0F00#16 = 0#16 ↔ w.extractLsb' 8 4 = 0#4 := by
  constructor
  · intro h
    calc w.extractLsb' 8 4
      _ = (w &&& 0x0F00#16).extractLsb' 8 4 := by
        rw [BitVec.extractLsb'_and]; exact (BitVec.and_allOnes).symm
      _ = 0#4 := by rw [h]; rfl
  · intro h
    have hbit (k : Nat) (hk : k < 4) : w.getLsbD (8 + k) = false := by
      simpa [hk] using congrArg (fun b : BitVec 4 => b.getLsbD k) h
    have h8 := hbit 0
    have h9 := hbit 1
    have h10 := hbit 2
    have h11 := hbit 3
    apply BitVec.eq_of_getLsbD_eq
    intro i hi
    rw [BitVec.getLsbD_and]
    interval_cases i <;> simp_all

/-- RETI's write of SW drops the reserved bits of the word it pops (R189). -/
theorem reservedBits_and_swMask (w : Word) : (w &&& 0xF0FF#16).extractLsb' 8 4 = 0#4 := by
  rw [BitVec.extractLsb'_and]
  exact BitVec.and_zero

/-- Words that agree in a field around the reserved bits agree in these. -/
theorem reservedBits_eq_of_field {v w : Word} {start len : Nat} (hlow : start ≤ 8) (hhigh : 12 ≤ start + len)
    (h : v.extractLsb' start len = w.extractLsb' start len) : v.extractLsb' 8 4 = w.extractLsb' 8 4 := by
  have hfield (x : Word) : (x.extractLsb' start len).extractLsb' (8 - start) 4 = x.extractLsb' 8 4 := by
    ext i hi
    have hbit : start + (8 - start + i) = 8 + i := by omega
    have hin : 8 - start + i < len := by omega
    simp [hbit, hin]
  rw [← hfield v, h, hfield w]

/-- No instruction sets a reserved bit: each writer of SW (R30) keeps them, but RETI, which clears them. -/
theorem exec_reservedBits {i : Instr} {s t : State} (h : exec i s = .next t) (hs : s.sw.extractLsb' 8 4 = 0#4) :
    t.sw.extractLsb' 8 4 = 0#4 := by
  obtain ⟨halu, hirq, hreti, -⟩ := writersOfTheStatusWord.1 i s t h
  by_cases hwritten : Part.sw ∈ changedParts i
  · rcases sw_mem_changedParts.mp hwritten with hi | hei | hdi | hi
    · rw [reservedBits_eq_of_field (by decide) (by decide) (halu hi), hs]
    · rw [reservedBits_eq_of_field (by decide) (by decide) (hirq (.inl hei)), hs]
    · rw [reservedBits_eq_of_field (by decide) (by decide) (hirq (.inr hdi)), hs]
    · rw [hreti hi, reservedBits_and_swMask]
  · rw [(exec_keeps h).parts .sw hwritten, hs]

theorem step_reservedBits {s t : State} (h : step s = .next t) (hs : s.sw.extractLsb' 8 4 = 0#4) :
    t.sw.extractLsb' 8 4 = 0#4 := by
  obtain ⟨-, ⟨n, -, rfl⟩ | ⟨-, i, u, -, hu, rfl⟩⟩ := step_cases h
  · exact hs
  · exact exec_reservedBits (s := s.fetched) (t := u) hu hs

/-! ## The record of events -/

theorem lines_notMem_changedParts (i : Instr) : Part.lines ∉ changedParts i := by
  cases i <;> simp [changedParts]

theorem devices_mem_changedParts {i : Instr} :
    Part.devices ∈ changedParts i ↔ (∃ d p, i = .portIn d p) ∨ ∃ r p, i = .portOut r p := by
  cases i <;> simp [changedParts]

/-- An instruction adds nothing to the history, or the one event of an IN or OUT at its port (R212, R213). -/
theorem exec_events {i : Instr} {s t : State} (hwf : i.WellFormed = true) (h : exec i s = .next t) :
    t.events = s.events ∨ ∃ e, portInRange e = true ∧ t.events = e :: s.events := by
  by_cases hi : Part.devices ∈ changedParts i
  · rcases devices_mem_changedParts.mp hi with ⟨d, p, rfl⟩ | ⟨r, p, rfl⟩
    · cases h; exact .inr ⟨.read p (s.portAnswer p), hwf, rfl⟩
    · cases h; exact .inr ⟨.write p (lob (s.reg r)), hwf, rfl⟩
  · exact .inl ((exec_keeps h).parts .devices hi).1

/-- A step adds at most one event, and any port it names is one of the 64 (R211, R300). -/
theorem step_events {s t : State} (h : step s = .next t) :
    t.events = s.events ∨ ∃ e, portInRange e = true ∧ t.events = e :: s.events := by
  obtain ⟨-, ⟨n, -, rfl⟩ | ⟨-, i, u, hfetch, hu, rfl⟩⟩ := step_cases h
  · exact .inr ⟨.entry n, rfl, rfl⟩
  · exact exec_events (s := s.fetched) (t := u) (State.fetchInstr_wellFormed hfetch) hu

/-- Every step passes one boundary (R300). -/
theorem step_boundary {s t : State} (h : step s = .next t) : t.boundary = s.boundary + 1 := by
  obtain ⟨-, ⟨n, -, rfl⟩ | ⟨-, i, u, -, hu, rfl⟩⟩ := step_cases h
  · rfl
  · obtain ⟨-, -, hkept⟩ := (exec_keeps hu).parts .lines (lines_notMem_changedParts i)
    exact congrArg (· + 1) hkept

/-- Settles O11, clause by clause: a step makes at most one event while it passes one boundary. -/
theorem stepKeepsTheInvariant : Obligations.StepKeepsTheInvariant := by
  rintro s t ⟨hmem, hsw, hports, hcount⟩ h
  refine ⟨step_mem_wf h hmem,
    and_reservedMask_eq_zero_iff.mpr (step_reservedBits h (and_reservedMask_eq_zero_iff.mp hsw)), ?_⟩
  rw [step_boundary h]
  rcases step_events h with hkept | ⟨e, he, hadded⟩
  · rw [hkept]
    exact ⟨hports, Nat.le_succ_of_le hcount⟩
  · rw [hadded]
    exact ⟨List.forall_mem_cons.mpr ⟨he, hports⟩, Nat.succ_le_succ hcount⟩

end Sys2Proof.Machine

/-! PROOF. The ports: what IN and OUT leave, and the printed tables of vector entries, devices and port registers. -/

namespace Sys2Proof.Machine

/-! ## IN and OUT -/

theorem encodes_portIn (d : Reg) (q : BitVec 6) :
    Encodes (0b11000#5 ++ fieldOfReg d ++ q ++ 0b0#1) (.portIn d q.toNat) :=
  encodes_of_encode (decide_eq_true q.isLt) (by simp [encode, encP6])

theorem encodes_portOut (r : Reg) (q : BitVec 6) :
    Encodes (0b11000#5 ++ fieldOfReg r ++ q ++ 0b1#1) (.portOut r q.toNat) :=
  encodes_of_encode (decide_eq_true q.isLt) (by simp [encode, encP6])

/-- A scripted answer is the one given (log 4). -/
theorem State.portAnswer_scripted {s : State} {b : Byte} {rest : List Byte} (h : s.portFeed = b :: rest) (port : Nat) :
    s.portAnswer port = b := by
  rw [State.portAnswer, h]

/-- OUT's byte is delivered to its own port only (R213). -/
theorem State.delivered_writePort (s : State) (port k : Nat) (b : Byte) :
    (s.writePort port b).delivered k = if k = port then b :: s.delivered k else s.delivered k := by
  by_cases hk : k = port
  · simp [State.delivered, hk]
  · simp [State.delivered, hk, Ne.symm hk]

/-- Settles O55: the recorded answer is the byte that goes to the destination. -/
theorem portInput : Obligations.PortInput := by
  intro d p s
  refine ⟨encodes_portIn d, (s.afterPortRead p).setLob d (s.portAnswer p), s.portAnswer p, rfl, ?_, rfl, rfl,
    fun c rest hfeed => State.portAnswer_scripted hfeed p, (s.keeps_afterPortRead p).trans (State.keeps_setLob _ d _)⟩
  rw [State.reg_setLob, if_pos rfl, State.afterPortRead_reg]

/-- Settles O56: one event enters the history, a write at the port. -/
theorem portOutput : Obligations.PortOutput := by
  intro r p s
  exact ⟨encodes_portOut r, s.writePort p (lob (s.reg r)), rfl, rfl, rfl, fun k => s.delivered_writePort p k _,
    s.keeps_writePort p _⟩

/-! ## The printed tables -/

/-- Settles O50: each entry is the printed one, and a device's is its number's. -/
theorem vectorTableAsPrinted : Obligations.VectorTableAsPrinted :=
  ⟨rfl, rfl, rfl, rfl, rfl, rfl, rfl, rfl, rfl, fun _ => rfl⟩

/-- The registers behind the ports as the spec lists them, each with its port and device (R218). -/
def listedRegisters : List (Nat × Device × PortRegister) :=
  [(0x00, .pit0, .counter), (0x01, .pit0, .status), (0x02, .pit0, .timerIntCtrl),
    (0x08, .adc, .ctrl), (0x09, .adc, .status), (0x0A, .adc, .data), (0x0B, .adc, .channel),
    (0x10, .pit1, .counter), (0x11, .pit1, .status), (0x12, .pit1, .timerIntCtrl),
    (0x28, .pio0, .status), (0x29, .pio0, .ctrl), (0x2A, .pio0, .data),
    (0x30, .vid, .status), (0x31, .vid, .ctrl), (0x32, .vid, .data),
    (0x38, .kbd, .status), (0x39, .kbd, .ctrl), (0x3A, .kbd, .data), (0x3B, .kbd, .data1)]

/-- `portRegister` is that list: each branch of its match is one entry (R218, R221). -/
theorem portRegister_eq_some_iff {p : Nat} {d : Device} {r : PortRegister} :
    portRegister p = some (d, r) ↔ (p, d, r) ∈ listedRegisters := by
  constructor
  · intro h
    unfold portRegister at h
    split at h <;> cases h <;> decide
  · have hall : ∀ e ∈ listedRegisters, portRegister e.1 = some e.2 := by decide
    exact hall (p, d, r)

/-- Every listed register lies in its device's block of eight ports (R217). -/
theorem listedRegisters_inBlock : ∀ e ∈ listedRegisters,
    e.2.1.basePort ≤ e.1 ∧ e.1 < e.2.1.basePort + 8 ∧ e.1 < 64 := by
  decide

/-- No register is listed twice. -/
theorem listedRegisters_inj : ∀ e ∈ listedRegisters, ∀ f ∈ listedRegisters, e.2 = f.2 → e.1 = f.1 := by
  decide

/-- Settles O57, through the list of port registers. -/
theorem devicePortBlocks : Obligations.DevicePortBlocks := by
  refine ⟨rfl, fun p d r => portRegister_eq_some_iff, fun d => ?_, fun p d r h => ?_, fun p q e hp hq => ?_⟩
  · cases d <;> rfl
  · exact listedRegisters_inBlock _ (portRegister_eq_some_iff.mp h)
  · exact listedRegisters_inj _ (portRegister_eq_some_iff.mp hp) _ (portRegister_eq_some_iff.mp hq) rfl

end Sys2Proof.Machine

/-! PROOF. The enables, HALT and NOP, and the boundary registers: each is one write of one part, or of none. -/

namespace Sys2Proof.Machine

/-! ## EI and DI -/

/-- EI adds the mask's lines to the enabled ones and leaves the high byte (R231). -/
theorem State.getLsbD_enableLines (s : State) (m : Byte) (k : Nat) :
    (s.setIrqEnables (s.irqEnables ||| m)).sw.getLsbD k =
      if k < 8 then m.getLsbD k || s.sw.getLsbD k else s.sw.getLsbD k := by
  rw [State.getLsbD_setIrqEnables]
  split
  · next hlow => rw [BitVec.getLsbD_or, State.getLsbD_irqEnables, decide_eq_true hlow, Bool.true_and, Bool.or_comm]
  · rfl

/-- DI keeps, of the enabled lines, those of the mask, and leaves the high byte (R232, D35). -/
theorem State.getLsbD_keepLines (s : State) (m : Byte) (k : Nat) :
    (s.setIrqEnables (s.irqEnables &&& m)).sw.getLsbD k =
      if k < 8 then m.getLsbD k && s.sw.getLsbD k else s.sw.getLsbD k := by
  rw [State.getLsbD_setIrqEnables]
  split
  · next hlow => rw [BitVec.getLsbD_and, State.getLsbD_irqEnables, decide_eq_true hlow, Bool.true_and, Bool.and_comm]
  · rfl

/-- Settles O58: both are one write of the enables. -/
theorem interruptEnableAndDisable : Obligations.InterruptEnableAndDisable := by
  refine ⟨fun m s => ?_, fun m s => ?_⟩
  · exact ⟨encodes_of_encode (i := .ei m) rfl rfl, s.setIrqEnables (s.irqEnables ||| m), rfl,
      fun k _ => s.getLsbD_enableLines m k, s.keeps_setIrqEnables _⟩
  · exact ⟨encodes_of_encode (i := .di m) rfl rfl, s.setIrqEnables (s.irqEnables &&& m), rfl,
      fun k _ => s.getLsbD_keepLines m k, s.keeps_setIrqEnables _⟩

/-! ## HALT and NOP -/

/-- The eleven low bits of HALT must be 0 (R97). -/
theorem faultsAsReserved_halt {z : BitVec 11} (hz : z ≠ 0#11) : FaultsAsReserved (encI11 0b11010#5 z) :=
  faultsAsReserved_of_needZero (i := .halt) hz fun operand => by
    rw [decodeWord_halt operand (opField_encI11 ..), immed11Field_encI11]

/-- The eleven low bits of NOP must be 0 (R97). -/
theorem faultsAsReserved_nop {z : BitVec 11} (hz : z ≠ 0#11) : FaultsAsReserved (encI11 0b11011#5 z) :=
  faultsAsReserved_of_needZero (i := .nop) hz fun operand => by
    rw [decodeWord_nop operand (opField_encI11 ..), immed11Field_encI11]

/-- Settles O59: HALT is one write of RB, and NOP leaves the state it ran in. -/
theorem haltAndNop : Obligations.HaltAndNop := by
  refine ⟨fun s => ?_, fun s => ?_⟩
  · exact ⟨encodes_of_encode (i := .halt) rfl rfl, fun z hz => faultsAsReserved_halt hz, s.stopClock, rfl, rfl,
      s.keeps_stopClock⟩
  · exact ⟨encodes_of_encode (i := .nop) rfl rfl, fun z hz => faultsAsReserved_nop hz, s, rfl, .refl s⟩

/-! ## LDOS and LDRO -/

/-- Settles O60: each writes its boundary with the PC-relative address a branch would take. -/
theorem boundaryLoads : Obligations.BoundaryLoads := by
  refine ⟨fun off s => ?_, fun off s => ?_⟩
  · exact ⟨encodes_of_encode (i := .ldos off) rfl rfl, s.loadOsb (s.relative off), rfl,
      toNat_add_sext16 (by decide) s.pc off, s.keeps_loadOsb _⟩
  · exact ⟨encodes_of_encode (i := .ldro off) rfl rfl, s.loadTxb (s.relative off), rfl,
      toNat_add_sext16 (by decide) s.pc off, s.keeps_loadTxb _⟩

end Sys2Proof.Machine

/-! PROOF. Interrupts: which line is pending, what the step that enters it leaves, and what RETI restores. An entry is the
shared entry TRAP uses, with the record and the new sample of the lines beside it; the return sees neither. -/

namespace Sys2Proof.Machine

/-! ## The pending line (R254, R257, R260) -/

/-- An enable bit is the bit of SW with the line's number (R27). -/
theorem State.getLsbD_irqEnables_line (s : State) (n : Fin 8) : s.irqEnables.getLsbD n.val = s.sw.getLsbD n.val := by
  rw [State.getLsbD_irqEnables, decide_eq_true n.isLt, Bool.true_and]

/-- With no line enabled none is pending (R254). -/
theorem State.pendingLine_of_noEnables {s : State} (h : s.irqEnables = 0#8) : s.pendingLine = none := by
  rw [State.pendingLine_eq_none]
  rintro m ⟨henabled, -⟩
  rw [h, BitVec.getLsbD_zero] at henabled
  cases henabled

/-- When every line requests and none is pending, none is enabled (R254, R257). -/
theorem State.noEnables_of_pendingLine {s : State} (hlines : s.irqLines = BitVec.allOnes 8) (h : s.pendingLine = none) :
    s.irqEnables = 0#8 := by
  rw [State.pendingLine_eq_none] at h
  apply BitVec.eq_of_getLsbD_eq
  intro k hk
  have hrequests : s.irqLines.getLsbD k = true := by
    rw [hlines, BitVec.getLsbD_allOnes, decide_eq_true hk]
  rw [BitVec.getLsbD_zero, Bool.eq_false_iff]
  exact fun henabled => h ⟨k, hk⟩ ⟨henabled, hrequests⟩

/-- Settles O52: a request on every line finds any enabled one. -/
theorem interruptsAreOffExactlyWhenAllDisabled : Obligations.InterruptsAreOffExactlyWhenAllDisabled := by
  intro s
  constructor
  · exact fun hoff lines => State.pendingLine_of_noEnables (s := { s with irqLines := lines }) hoff
  · exact fun hnone => State.noEnables_of_pendingLine (s := { s with irqLines := BitVec.allOnes 8 }) rfl (hnone _)

/-! ## Entering a line (R256, R258) -/

/-- The step that enters a line changes SP, the frame's bytes, `pc`, the record and the sample of the lines (R258, R265). -/
theorem State.keeps_takeInterrupt_nextBoundary (s : State) (n : Fin 8) :
    s.Keeps (s.takeInterrupt n).nextBoundary [Reg.sp] (frameBytes (s.reg Reg.sp)) [.pc, .devices, .lines] :=
  ((s.keeps_takeInterrupt n).trans (State.keeps_nextBoundary _)).mono (by simp)
    (by simpa using wordBytes_subset_frameBytes (s.reg Reg.sp)) (by simp)

/-- Settles O51: the lowest enabled line that requests is the pending one, and its entry pushes the frame TRAP pushes. -/
theorem interruptEntersTheLowestEnabledLine : Obligations.InterruptEntersTheLowestEnabledLine := by
  intro s n hrb henabled hrequests hlowest
  have hpending : s.pendingLine = some n :=
    State.pendingLine_eq_some (s.getLsbD_irqEnables_line n ▸ henabled) hrequests
      fun m hm => s.getLsbD_irqEnables_line m ▸ hlowest m hm
  obtain ⟨hswHigh, hswLow, hpcHigh, hpcLow⟩ := s.readByte_pushFrame_same
  exact ⟨(s.takeInterrupt n).nextBoundary, step_interrupt hrb hpending, rfl, s.reg_sp_pushFrame, hswHigh,
    s.lob_swValue ▸ hswLow, hpcHigh, hpcLow, rfl, rfl, s.keeps_takeInterrupt_nextBoundary n⟩

/-! ## Resuming the interrupted program (R262, R263) -/

theorem State.agree_symm {s t : State} {p : Part} (h : s.agree t p) : t.agree s p := by
  cases p <;> simp_all [State.agree]

/-- The return makes no difference of its own: two states that differ in some parts only return to states that differ in
no more (R189, R263). -/
theorem State.Keeps.leaveVector {s t : State} {ps : List Part} (h : s.Keeps t [] [] ps) :
    s.leaveVector.Keeps t.leaveVector [] [] ps where
  regs r _ := by
    by_cases hr : r = Reg.sp
    · rw [hr, State.reg_sp_leaveVector, State.reg_sp_leaveVector, h.regs Reg.sp (by simp)]
    · rw [t.keeps_leaveVector.regs r (by simpa using hr), s.keeps_leaveVector.regs r (by simpa using hr),
        h.regs r (by simp)]
  memory a _ := by
    rw [t.keeps_leaveVector.memory a (by simp), s.keeps_leaveVector.memory a (by simp), h.memory a (by simp)]
  parts p hp := by
    have hregs (r : Reg) : t.reg r = s.reg r := h.regs r (by simp)
    have hmem (a : Word) : t.readByte a = s.readByte a := h.memory a (by simp)
    have hkept (hwritten : p ∉ [Part.pc, Part.sw]) : s.leaveVector.agree t.leaveVector p :=
      State.agree_trans (State.agree_symm (s.keeps_leaveVector.parts p hwritten))
        (State.agree_trans (h.parts p hp) (t.keeps_leaveVector.parts p hwritten))
    cases p with
    | pc => rw [State.agree, State.pc_leaveVector, State.pc_leaveVector, hregs, hmem, hmem]
    | sw =>
      rw [State.agree, State.sw_leaveVector, State.sw_leaveVector]
      simp only [State.topWord, State.readWord, hregs, hmem]
    | _ => exact hkept (by decide)

/-- An interrupt entry is the bare entry, the record of it and a new sample of the lines (R256, R258, R259). -/
theorem State.keeps_enterVector_takeInterrupt (s : State) (n : Fin 8) :
    (s.enterVector (ivtEntry n) false).Keeps (s.takeInterrupt n).nextBoundary [] [] [.devices, .lines] := by
  have hrecord : (s.enterVector (ivtEntry n) false).Keeps (s.takeInterrupt n) [] [] [.devices] :=
    .of_parts rfl rfl fun p hp => by cases p <;> simp_all [State.agree, State.takeInterrupt, Config.irqAutoMask]
  exact hrecord.trans (State.keeps_nextBoundary _)

/-- Settles O54: RETI pops the frame the entry pushed, as it does after TRAP. -/
theorem retiResumesTheInterruptedProgram : Obligations.RetiResumesTheInterruptedProgram := by
  intro s n hrb hpending hreserved
  exact ⟨(s.takeInterrupt n).nextBoundary, _, step_interrupt hrb hpending, rfl,
    (State.keeps_leaveVector_enterVector hreserved (ivtEntry n)).trans (s.keeps_enterVector_takeInterrupt n).leaveVector⟩

end Sys2Proof.Machine

/-! PROOF. What no rule reads never matters. An update `IgnoresUnread` when forgetting OSB, TXB, IR and the ALU latches
before it makes no difference but to them; every operation of the model does, so every instruction and every step does. -/

namespace Sys2Proof.Machine

/-! ## Updates that do not depend on what no rule reads (R298) -/

/-- Forgetting what no rule reads before the update changes nothing else after it. -/
def IgnoresUnread (f : State → State) : Prop := ∀ s : State, (f s).withoutUnread = (f s.withoutUnread).withoutUnread

theorem IgnoresUnread.comp {f g : State → State} (hg : IgnoresUnread g) (hf : IgnoresUnread f) :
    IgnoresUnread (g ∘ f) := fun s =>
  calc (g (f s)).withoutUnread
      = (g (f s).withoutUnread).withoutUnread := hg (f s)
    _ = (g (f s.withoutUnread).withoutUnread).withoutUnread := by rw [hf s]
    _ = (g (f s.withoutUnread)).withoutUnread := (hg (f s.withoutUnread)).symm

theorem IgnoresUnread.next {f : State → State} (hf : IgnoresUnread f) (s : State) :
    onNext State.withoutUnread (.next (f s)) = onNext State.withoutUnread (.next (f s.withoutUnread)) :=
  congrArg Host.Outcome.next (hf s)

/-- The same for an update of an outcome: a fault and a refusal stay. -/
theorem IgnoresUnread.onNext {f : State → State} (hf : IgnoresUnread f) (o : Host.Outcome State Fault Refusal) :
    onNext State.withoutUnread (onNext f o) = onNext State.withoutUnread (onNext f (onNext State.withoutUnread o)) := by
  cases o with
  | next u => exact hf.next u
  | fault _ | refused _ => rfl

/-! ## The primitive updates -/

theorem ignoresUnread_id : IgnoresUnread id := fun _ => rfl
theorem ignoresUnread_setReg (d : Reg) (v : Word) : IgnoresUnread (State.setReg d v) := fun _ => rfl
theorem ignoresUnread_setLob (d : Reg) (b : Byte) : IgnoresUnread (State.setLob d b) := fun _ => rfl
theorem ignoresUnread_setPc (t : Word) : IgnoresUnread (State.setPc t) := fun _ => rfl
theorem ignoresUnread_setSw (v : Word) : IgnoresUnread (State.setSw v) := fun _ => rfl
theorem ignoresUnread_setIrqEnables (m : BitVec 8) : IgnoresUnread (State.setIrqEnables m) := fun _ => rfl
theorem ignoresUnread_setFlags (f : Flags) : IgnoresUnread (State.setFlags f) := fun _ => rfl
theorem ignoresUnread_writeByte (a : Word) (b : Byte) : IgnoresUnread (State.writeByte a b) := fun _ => rfl
theorem ignoresUnread_stopClock : IgnoresUnread State.stopClock := fun _ => rfl
theorem ignoresUnread_writePort (port : Nat) (b : Byte) : IgnoresUnread (State.writePort port b) := fun _ => rfl
theorem ignoresUnread_afterPortRead (port : Nat) : IgnoresUnread (State.afterPortRead port) := fun _ => rfl
theorem ignoresUnread_nextBoundary : IgnoresUnread State.nextBoundary := fun _ => rfl

/-! The writers of what no rule reads: what they write is forgotten afterwards. -/

theorem ignoresUnread_loadOsb (v : Word) : IgnoresUnread (State.loadOsb v) := fun _ => rfl
theorem ignoresUnread_loadTxb (v : Word) : IgnoresUnread (State.loadTxb v) := fun _ => rfl
theorem ignoresUnread_fetched : IgnoresUnread State.fetched := fun _ => rfl
/-- Whatever the two states latch: NOT latches the former B (R158). -/
theorem State.withoutUnread_latchAlu (s : State) (a b : Word) (r : BitVec 32) :
    (s.latchAlu a b r).withoutUnread = s.withoutUnread := rfl

/-! ## The shared operations: an operand read from registers or memory is the same read afterwards -/

theorem ignoresUnread_dropBytes (n : Word) : IgnoresUnread (State.dropBytes n) :=
  fun s => ignoresUnread_setReg Reg.sp (s.reg Reg.sp + n) s

theorem ignoresUnread_writeWord (a v : Word) : IgnoresUnread (State.writeWord a v) :=
  (ignoresUnread_writeByte (a + 1) (lob v)).comp (ignoresUnread_writeByte a (hob v))

theorem ignoresUnread_pushByte (b : Byte) : IgnoresUnread (State.pushByte b) := fun s =>
  ((ignoresUnread_writeByte (s.reg Reg.sp - 1) b).comp (ignoresUnread_setReg Reg.sp (s.reg Reg.sp - 1))) s

theorem ignoresUnread_pushWord (v : Word) : IgnoresUnread (State.pushWord v) := fun s =>
  ((ignoresUnread_writeWord (s.reg Reg.sp - 2) v).comp (ignoresUnread_setReg Reg.sp (s.reg Reg.sp - 2))) s

theorem State.withoutUnread_ea (s : State) (m : Mode) (a : Reg) : s.withoutUnread.ea m a = s.ea m a := by
  cases m <;> rfl

theorem ignoresUnread_bump (m : Mode) (a : Reg) (n : Word) : IgnoresUnread (State.bump m a n) := by
  cases m with
  | index => exact fun s => ignoresUnread_setReg a (s.reg a + n) s
  | register | base | indirect => exact ignoresUnread_id

theorem ignoresUnread_loadByte (m : Mode) (d a : Reg) : IgnoresUnread (State.loadByte m d a) := fun s => by
  rw [State.loadByte, State.loadByte, State.withoutUnread_ea]
  exact ((ignoresUnread_setLob d (s.readByte (s.ea m a))).comp (ignoresUnread_bump m a 1)) s

theorem ignoresUnread_loadWord (m : Mode) (d a : Reg) : IgnoresUnread (State.loadWord m d a) := fun s => by
  rw [State.loadWord, State.loadWord, State.withoutUnread_ea]
  exact ((ignoresUnread_setReg d (s.readWord (s.ea m a))).comp (ignoresUnread_bump m a 2)) s

theorem ignoresUnread_storeByte (m : Mode) (r a : Reg) : IgnoresUnread (State.storeByte m r a) := fun s => by
  rw [State.storeByte, State.storeByte, State.withoutUnread_ea]
  exact ((ignoresUnread_bump m a 1).comp (ignoresUnread_writeByte (s.ea m a) (lob (s.reg r)))) s

theorem ignoresUnread_storeWord (m : Mode) (r a : Reg) : IgnoresUnread (State.storeWord m r a) := fun s => by
  rw [State.storeWord, State.storeWord, State.withoutUnread_ea]
  exact ((ignoresUnread_bump m a 2).comp (ignoresUnread_writeWord (s.ea m a) (s.reg r))) s

/-- A 16-bit ALU result depends on its operands, and not on what is latched beside it (R33, R150). -/
theorem State.withoutUnread_writeAlu (s : State) (a b b' : Word) (d : Reg) (r : AluResult) :
    (s.writeAlu a b d r).withoutUnread = (s.withoutUnread.writeAlu a b' d r).withoutUnread := by
  have write : IgnoresUnread (State.setFlags r.flags ∘ State.setReg d r.value) :=
    (ignoresUnread_setFlags _).comp (ignoresUnread_setReg d _)
  refine (write (s.latchAlu a b (r.value.setWidth 32))).trans ?_
  rw [State.withoutUnread_latchAlu]
  exact (write (s.withoutUnread.latchAlu a b' (r.value.setWidth 32))).symm

theorem ignoresUnread_aluTwo (f : Word → Word → AluResult) (d r : Reg) : IgnoresUnread (State.aluTwo f d r) := fun s =>
  s.withoutUnread_writeAlu (s.reg d) (s.reg r) (s.reg r) d (f (s.reg d) (s.reg r))

theorem ignoresUnread_aluOne (f : Word → AluResult) (d : Reg) : IgnoresUnread (State.aluOne f d) := fun s =>
  s.withoutUnread_writeAlu (s.reg d) s.aluB 0#16 d (f (s.reg d))

theorem ignoresUnread_aluWide (f : Word → Word → WideResult) (o1 o2 : Reg) : IgnoresUnread (State.aluWide f o1 o2) :=
  fun _ => rfl

theorem State.withoutUnread_cond (s : State) (cc : Cond) : s.withoutUnread.cond cc = s.cond cc := by
  cases cc <;> rfl

theorem ignoresUnread_branchIf (cc : Cond) (target : Word) : IgnoresUnread (State.branchIf cc target) := fun s => by
  rw [State.branchIf, State.branchIf, State.withoutUnread_cond]
  split
  · exact ignoresUnread_setPc target s
  · exact ignoresUnread_id s

theorem ignoresUnread_call (r : Reg) : IgnoresUnread (State.call r) := fun s =>
  ((ignoresUnread_setPc (s.reg r)).comp (ignoresUnread_pushWord s.pc)) s

theorem ignoresUnread_callIf (cc : Cond) (r : Reg) : IgnoresUnread (State.callIf cc r) := fun s => by
  rw [State.callIf_eq, State.callIf_eq, State.withoutUnread_cond]
  split
  · exact ignoresUnread_call r s
  · exact ignoresUnread_id s

theorem ignoresUnread_pushFrame : IgnoresUnread State.pushFrame := fun s =>
  ((ignoresUnread_pushWord s.swValue).comp (ignoresUnread_pushWord s.pc)) s

/-- An entry that masks no line goes to the entry's address (R187, R258). -/
theorem ignoresUnread_enterVector (entry : Word) : IgnoresUnread (State.enterVector entry false) :=
  (ignoresUnread_setPc entry).comp ignoresUnread_pushFrame

/-- The return's three values are read from memory and SP as they were before it (R189, R263). -/
theorem ignoresUnread_leaveVector : IgnoresUnread State.leaveVector := fun s =>
  ((ignoresUnread_setPc (((s.dropBytes 2).setSw s.topWord).topWord)).comp
    ((ignoresUnread_dropBytes 2).comp ((ignoresUnread_setSw s.topWord).comp (ignoresUnread_dropBytes 2)))) s

/-- Interrupt entry adds to the history, which a rule reads, an event that depends on the line only (R256, R258). -/
theorem ignoresUnread_takeInterrupt (n : Fin 8) : IgnoresUnread (State.takeInterrupt n) := by
  have record : IgnoresUnread fun s : State => { s with events := .entry n :: s.events } := fun _ => rfl
  exact record.comp (ignoresUnread_enterVector (ivtEntry n))

/-! ## Every instruction -/

theorem exec_div_ignoresUnread (o1 o2 : Reg) (s : State) :
    onNext State.withoutUnread (execDiv o1 o2 s) = onNext State.withoutUnread (execDiv o1 o2 s.withoutUnread) := by
  by_cases h : s.reg o2 = 0#16
  · rw [execDiv_zero h, execDiv_zero (s := s.withoutUnread) h]; rfl
  · rw [execDiv_nonzero h, execDiv_nonzero (s := s.withoutUnread) h]
    exact (ignoresUnread_aluWide _ o1 o2).next s

/-- An instruction's outcome is that of the state without what no rule reads: one arm for each meaning. -/
theorem exec_ignoresUnread (i : Instr) (s : State) :
    onNext State.withoutUnread (exec i s) = onNext State.withoutUnread (exec i s.withoutUnread) := by
  cases i with
  | ldi d imm => exact (ignoresUnread_setReg d _).next s
  | lda d v => exact ((ignoresUnread_setReg d v).comp (ignoresUnread_setPc (s.pc + 2))).next s
  | ldbReg d a => exact (ignoresUnread_loadByte .register d a).next s
  | ldbBase d a => exact (ignoresUnread_loadByte .base d a).next s
  | ldbIdx d => exact (ignoresUnread_loadByte .index d Reg.ip0).next s
  | ldbInd d a => exact (ignoresUnread_loadByte .indirect d a).next s
  | ldwReg d a => exact (ignoresUnread_loadWord .register d a).next s
  | ldwBase d a => exact (ignoresUnread_loadWord .base d a).next s
  | ldwIdx d => exact (ignoresUnread_loadWord .index d Reg.ip0).next s
  | ldwInd d a => exact (ignoresUnread_loadWord .indirect d a).next s
  | mov d r => exact (ignoresUnread_setReg d (s.reg r)).next s
  | stbReg r a => exact (ignoresUnread_storeByte .register r a).next s
  | stbBase r a => exact (ignoresUnread_storeByte .base r a).next s
  | stbIdx r => exact (ignoresUnread_storeByte .index r Reg.ip1).next s
  | stbInd r a => exact (ignoresUnread_storeByte .indirect r a).next s
  | stwReg r a => exact (ignoresUnread_storeWord .register r a).next s
  | stwBase r a => exact (ignoresUnread_storeWord .base r a).next s
  | stwIdx r => exact (ignoresUnread_storeWord .index r Reg.ip1).next s
  | stwInd r a => exact (ignoresUnread_storeWord .indirect r a).next s
  | pushb r => exact (ignoresUnread_pushByte (lob (s.reg r))).next s
  | popb d => exact ((ignoresUnread_setLob d s.topByte).comp (ignoresUnread_dropBytes 1)).next s
  | pushw r => exact (ignoresUnread_pushWord (s.reg r)).next s
  | popw d => exact ((ignoresUnread_setReg d s.topWord).comp (ignoresUnread_dropBytes 2)).next s
  | add d r | sub d r | bitAnd d r | bitOr d r | bitXor d r | shl d r | shr d r =>
    exact (ignoresUnread_aluTwo _ d r).next s
  | bitNot d => exact (ignoresUnread_aluOne _ d).next s
  | mul o1 o2 => exact (ignoresUnread_aluWide _ o1 o2).next s
  | div o1 o2 => exact exec_div_ignoresUnread o1 o2 s
  | brImm off => exact (ignoresUnread_setPc (s.relative off)).next s
  | brReg r => exact (ignoresUnread_setPc (s.reg r)).next s
  | brnImm off => exact (ignoresUnread_branchIf .n (s.relative off)).next s
  | brzImm off => exact (ignoresUnread_branchIf .z (s.relative off)).next s
  | brcImm off => exact (ignoresUnread_branchIf .c (s.relative off)).next s
  | broImm off => exact (ignoresUnread_branchIf .o (s.relative off)).next s
  | brnReg r => exact (ignoresUnread_branchIf .n (s.reg r)).next s
  | brzReg r => exact (ignoresUnread_branchIf .z (s.reg r)).next s
  | brcReg r => exact (ignoresUnread_branchIf .c (s.reg r)).next s
  | broReg r => exact (ignoresUnread_branchIf .o (s.reg r)).next s
  | jsr r => exact (ignoresUnread_call r).next s
  | jsrn r => exact (ignoresUnread_callIf .n r).next s
  | jsrz r => exact (ignoresUnread_callIf .z r).next s
  | jsrc r => exact (ignoresUnread_callIf .c r).next s
  | jsro r => exact (ignoresUnread_callIf .o r).next s
  | trap v => exact (ignoresUnread_enterVector _).next s
  | ret => exact ((ignoresUnread_setPc s.topWord).comp (ignoresUnread_dropBytes 2)).next s
  | reti => exact ignoresUnread_leaveVector.next s
  | portIn d port =>
    exact ((ignoresUnread_setLob d (s.portAnswer port)).comp (ignoresUnread_afterPortRead port)).next s
  | portOut r port => exact (ignoresUnread_writePort port (lob (s.reg r))).next s
  | ei m => exact (ignoresUnread_setIrqEnables (s.irqEnables ||| m)).next s
  | di m => exact (ignoresUnread_setIrqEnables (s.irqEnables &&& m)).next s
  | halt => exact ignoresUnread_stopClock.next s
  | nop => exact ignoresUnread_id.next s
  | ldos off => exact (ignoresUnread_loadOsb (s.relative off)).next s
  | ldro off => exact (ignoresUnread_loadTxb (s.relative off)).next s

/-! ## Every step -/

theorem State.withoutUnread_pendingLine (s : State) : s.withoutUnread.pendingLine = s.pendingLine := rfl
theorem State.withoutUnread_fetchInstr (s : State) : s.withoutUnread.fetchInstr = s.fetchInstr := rfl

/-- The instruction runs in the fetched state, whose IR is forgotten as the latches are (R26, R300). -/
theorem exec_fetched_ignoresUnread (i : Instr) (s : State) :
    onNext State.withoutUnread (exec i s.fetched) = onNext State.withoutUnread (exec i s.withoutUnread.fetched) := by
  rw [exec_ignoresUnread i s.fetched, ignoresUnread_fetched s, ← exec_ignoresUnread]

theorem fetchExecute_ignoresUnread (s : State) :
    onNext State.withoutUnread (fetchExecute s) = onNext State.withoutUnread (fetchExecute s.withoutUnread) := by
  rw [fetchExecute_eq, fetchExecute_eq, State.withoutUnread_fetchInstr]
  cases s.fetchInstr with
  | error e => rfl
  | ok i =>
    calc onNext State.withoutUnread (onNext State.nextBoundary (exec i s.fetched))
        = onNext State.withoutUnread (onNext State.nextBoundary (onNext State.withoutUnread (exec i s.fetched))) :=
          ignoresUnread_nextBoundary.onNext _
      _ = onNext State.withoutUnread
            (onNext State.nextBoundary (onNext State.withoutUnread (exec i s.withoutUnread.fetched))) := by
          rw [exec_fetched_ignoresUnread]
      _ = onNext State.withoutUnread (onNext State.nextBoundary (exec i s.withoutUnread.fetched)) :=
          (ignoresUnread_nextBoundary.onNext _).symm

/-- A step is that of the state without what no rule reads: whether it halts, enters a line or fetches is the same. -/
theorem step_ignoresUnread (s : State) :
    onNext State.withoutUnread (step s) = onNext State.withoutUnread (step s.withoutUnread) := by
  cases hrb : s.rb with
  | false => rw [step_halted hrb, step_halted (s := s.withoutUnread) hrb]
  | true =>
    cases hp : s.pendingLine with
    | some n =>
      rw [step_interrupt hrb hp, step_interrupt (s := s.withoutUnread) hrb (s.withoutUnread_pendingLine.trans hp)]
      exact (ignoresUnread_nextBoundary.comp (ignoresUnread_takeInterrupt n)).next s
    | none =>
      rw [step_fetch hrb hp, step_fetch (s := s.withoutUnread) hrb (s.withoutUnread_pendingLine.trans hp)]
      exact fetchExecute_ignoresUnread s

/-- Settles O20: both steps are that of the one state the two have in common. -/
theorem unreadStateNeverMatters : Obligations.UnreadStateNeverMatters := by
  intro s s' h
  rw [step_ignoresUnread s, h, ← step_ignoresUnread s']

end Sys2Proof.Machine

/-! PROOF. Reset and the halted machine: nothing but RB = 0 refuses a step, and after reset no line is enabled. -/

namespace Sys2Proof.Machine

/-! ## Refusals (R302) -/

/-- Every instruction has a meaning: it completes, or it is a DIV that faults (R154). -/
theorem exec_ne_refused (i : Instr) (s : State) (r : Refusal) : exec i s ≠ .refused r := by
  cases i with
  | div o1 o2 =>
    change execDiv o1 o2 s ≠ .refused r
    by_cases h : s.reg o2 = 0#16
    · rw [execDiv_zero h]; exact nofun
    · rw [execDiv_nonzero h]; exact nofun
  | _ => exact nofun

theorem onNext_ne_refused {f : State → State} {o : Host.Outcome State Fault Refusal} {r : Refusal}
    (h : o ≠ .refused r) : onNext f o ≠ .refused r := by
  cases o with
  | next u => rw [onNext_next]; exact nofun
  | fault _ | refused _ => exact h

/-- Fetching and executing is never refused: bytes that are no instruction fault (R99). -/
theorem fetchExecute_ne_refused (s : State) (r : Refusal) : fetchExecute s ≠ .refused r := by
  rw [fetchExecute_eq]
  cases s.fetchInstr with
  | error e => exact nofun
  | ok i => exact onNext_ne_refused (exec_ne_refused i s.fetched r)

/-- A machine whose clock runs is not refused, whether it enters a line or fetches. -/
theorem step_ne_refused {s : State} (hrb : s.rb = true) (r : Refusal) : step s ≠ .refused r := by
  cases hp : s.pendingLine with
  | some n => rw [step_interrupt hrb hp]; exact nofun
  | none => rw [step_fetch hrb hp]; exact fetchExecute_ne_refused s r

/-- Settles O9: the one outcome of a halted machine, and the one machine with that outcome. -/
theorem haltedMachineHasNoStep : Obligations.HaltedMachineHasNoStep := by
  refine ⟨fun s hrb => ?_, fun s r => ⟨fun h => ?_, ?_⟩⟩
  · rw [step_halted hrb]
    exact ⟨nofun, nofun⟩
  · cases hrb : s.rb with
    | true => exact absurd h (step_ne_refused hrb r)
    | false =>
      rw [step_halted hrb] at h
      cases h
      exact ⟨rfl, rfl⟩
  · rintro ⟨hrb, rfl⟩
    exact step_halted hrb

/-! ## Reset (R290, R292) -/

/-- Settles O13: SW is 0, so no line is enabled, and none is pending whatever requests. -/
theorem resetRunsWithInterruptsOff : Obligations.ResetRunsWithInterruptsOff := by
  have hoff : State.reset.irqEnables = 0x00#8 := by decide
  refine ⟨rfl, rfl, by decide, hoff, fun lines => ?_⟩
  exact State.pendingLine_of_noEnables (s := { State.reset with irqLines := lines }) hoff

end Sys2Proof.Machine

/-! PROOF. The decoder read backwards: a word is put together from its fields, so bytes that decode are the encoding of the
instruction they decode to. -/

namespace Sys2Proof.Machine

/-! ## A word is the word of its fields, format by format (R81, R82) -/

section
variable {w : Word} {op : BitVec 5}

/-- Two fields next to each other are one field. -/
theorem field_append (w : Word) (low len len' : Nat) :
    w.extractLsb' (low + len) len' ++ w.extractLsb' low len = w.extractLsb' low (len' + len) :=
  BitVec.extractLsb'_append_extractLsb'_eq_extractLsb' rfl

theorem encI7_eq {v : BitVec 7} (hop : (opField w).toNat = op.toNat) (hv : immed7Field w = v) :
    encI7 op (reg1 w) v = w := by
  calc encI7 op (reg1 w) v
    _ = opField w ++ r1Field w ++ immed7Field w := by rw [← BitVec.eq_of_toNat_eq hop, ← hv]; rfl
    _ = w.extractLsb' 7 9 ++ immed7Field w := congrArg (· ++ _) (field_append w 7 4 5)
    _ = w.extractLsb' 0 16 := field_append w 0 7 9
    _ = w := BitVec.extractLsb'_eq_self

theorem encRRM_eq {r2 : Reg} {m : BitVec 3} (hop : (opField w).toNat = op.toNat) (hr2 : reg2 w = r2)
    (hm : (modeField w).toNat = m.toNat) : encRRM op (reg1 w) r2 m = w := by
  calc encRRM op (reg1 w) r2 m
    _ = opField w ++ r1Field w ++ r2Field w ++ modeField w := by
      rw [← BitVec.eq_of_toNat_eq hop, ← hr2, ← BitVec.eq_of_toNat_eq hm]; rfl
    _ = w.extractLsb' 7 9 ++ r2Field w ++ modeField w := congrArg (· ++ _ ++ _) (field_append w 7 4 5)
    _ = w.extractLsb' 3 13 ++ modeField w := congrArg (· ++ _) (field_append w 3 4 9)
    _ = w.extractLsb' 0 16 := field_append w 0 3 13
    _ = w := BitVec.extractLsb'_eq_self

theorem encRM_eq {m : BitVec 3} (hop : (opField w).toNat = op.toNat) (hzero : r2Field w = 0#4)
    (hm : (modeField w).toNat = m.toNat) : encRM op (reg1 w) m = w :=
  encRRM_eq hop (r2 := 0) (congrArg regOfField hzero) hm

theorem encRC_eq {cc : BitVec 2} (hop : (opField w).toNat = op.toNat) (hzero : rcZeroField w = 0#5)
    (hcc : (ccField w).toNat = cc.toNat) : encRC op (reg1 w) cc = w := by
  have hlow : immed7Field w = 0#5 ++ cc := by
    rw [← hzero, ← BitVec.eq_of_toNat_eq hcc]
    exact (field_append w 0 2 5).symm
  rw [encRC, BitVec.append_assoc]
  exact encI7_eq hop hlow

theorem encP6_eq {f : BitVec 1} (hop : (opField w).toNat = op.toNat) (hf : (dirField w).toNat = f.toNat) :
    encP6 op (reg1 w) (port6Field w).toNat f = w := by
  have hlow : immed7Field w = port6Field w ++ f := by
    rw [← BitVec.eq_of_toNat_eq hf]
    exact (field_append w 0 1 6).symm
  rw [encP6, BitVec.ofNat_toNat, BitVec.setWidth_eq, BitVec.append_assoc]
  exact encI7_eq hop hlow

theorem encI11_eq {v : BitVec 11} (hop : (opField w).toNat = op.toNat) (hv : immed11Field w = v) : encI11 op v = w := by
  calc encI11 op v
    _ = opField w ++ immed11Field w := by rw [← BitVec.eq_of_toNat_eq hop, ← hv]; rfl
    _ = w.extractLsb' 0 16 := field_append w 0 11 5
    _ = w := BitVec.extractLsb'_eq_self

/-- RET and RETI: ten zero bits, and the bit below them (R90). -/
theorem encI11_return_eq {f : BitVec 1} (hop : (opField w).toNat = op.toNat) (hzero : retZeroField w = 0#10)
    (hf : (dirField w).toNat = f.toNat) : encI11 op (0#10 ++ f) = w := by
  refine encI11_eq hop ?_
  rw [← hzero, ← BitVec.eq_of_toNat_eq hf]
  exact (field_append w 0 1 10).symm

theorem encI9C_eq {cc : BitVec 2} (hop : (opField w).toNat = op.toNat) (hcc : (ccField w).toNat = cc.toNat) :
    encI9C op (immed9Field w) cc = w := by
  have hlow : immed11Field w = immed9Field w ++ cc := by
    rw [← BitVec.eq_of_toNat_eq hcc]
    exact (field_append w 0 2 9).symm
  rw [encI9C, BitVec.append_assoc]
  exact encI11_eq hop hlow

theorem encV6_eq (hop : (opField w).toNat = op.toNat) (hzero : trapZeroField w = 0#5) : encV6 op (vect6Field w) = w := by
  have hlow : immed11Field w = vect6Field w ++ 0#5 := by
    rw [← hzero]
    exact (field_append w 0 5 6).symm
  rw [encV6, BitVec.append_assoc]
  exact encI11_eq hop hlow

theorem encQ8_eq {f : BitVec 3} (hop : (opField w).toNat = op.toNat) (hf : (modeField w).toNat = f.toNat) :
    encQ8 op (irq8Field w) f = w := by
  have hlow : immed11Field w = irq8Field w ++ f := by
    rw [← BitVec.eq_of_toNat_eq hf]
    exact (field_append w 0 3 8).symm
  rw [encQ8, BitVec.append_assoc]
  exact encI11_eq hop hlow

end

/-! ## Strict decoding gives an instruction the word encodes -/

/-- A decoding gives no other instruction than one this word encodes. -/
def GivesEncoded (w : Word) (r : Except DecodeError Instr) : Prop := ∀ i, r = .ok i → encode i = [w]

section
variable {w : Word}

@[simp] theorem givesEncoded_ok {i : Instr} : GivesEncoded w (.ok i) ↔ encode i = [w] := by
  simp [GivesEncoded]

@[simp] theorem givesEncoded_error (e : DecodeError) : GivesEncoded w (.error e) := nofun

@[simp] theorem givesEncoded_badMode (v : Word) : GivesEncoded w (badMode v) := nofun

@[simp] theorem givesEncoded_needZero {n : Nat} {bits : BitVec n} {i : Instr} :
    GivesEncoded w (needZero true w bits i) ↔ bits = 0#n → encode i = [w] := by
  simp [GivesEncoded, needZero_eq_ok]

@[simp] theorem givesEncoded_needIndex {index : Reg} {i : Instr} :
    GivesEncoded w (needIndex w index i) ↔ reg2 w = index → encode i = [w] := by
  simp [GivesEncoded, needIndex_eq_ok]

/-- The decoders of opcodes with several forms, each with its opcode: every form is put together from the fields its decoder
reads, and the constants it asks for (R87 to R90). -/
theorem givesEncoded_formDecoders (w : Word) :
    ∀ p ∈ [(0b00011, decodeLdb w), (0b00100, decodeLdw w), (0b00101, decodeStb w), (0b00110, decodeStw w),
      (0b00111, decodeStack true w), (0b01000, decodeShl w), (0b01010, decodeShr w), (0b11001, decodeIrq w)],
      (opField w).toNat = p.1 → GivesEncoded w p.2 := by
  simp only [List.forall_mem_cons, List.not_mem_nil, false_implies, implies_true, and_true]
  and_intros
  all_goals
    intro hop
    simp only [decodeLdb, decodeLdw, decodeStb, decodeStw, decodeStack, decodeShl, decodeShr, decodeIrq]
    split <;> simp +contextual [encode, encRRM_eq, encRM_eq, encQ8_eq, *]

/-- The decoders whose last form takes what is left of a field of one, two or three bits. -/
theorem givesEncoded_lastFormDecoders (w : Word) :
    ∀ p ∈ [(0b01001, decodeAlu true w), (0b10010, decodeBranchImm w), (0b10011, decodeBranchReg true w),
      (0b10101, decodeCallCond true w), (0b10111, decodeReturn true w), (0b11000, decodeIo w)],
      (opField w).toNat = p.1 → GivesEncoded w p.2 := by
  simp only [List.forall_mem_cons, List.not_mem_nil, false_implies, implies_true, and_true]
  have hmode := (modeField w).isLt
  have hcc := (ccField w).isLt
  have hdir := (dirField w).isLt
  and_intros
  all_goals
    intro hop
    simp only [decodeAlu, decodeBranchImm, decodeBranchReg, decodeCallCond, decodeReturn, decodeIo]
  · interval_cases hm : (modeField w).toNat <;> simp +contextual [encode, encRRM_eq, encRM_eq, *]
  · interval_cases hm : (ccField w).toNat <;> simp [encode, encI9C_eq, *]
  · interval_cases hm : (ccField w).toNat <;> simp +contextual [encode, encRC_eq, *]
  · interval_cases hm : (ccField w).toNat <;> simp +contextual [encode, encRC_eq, *]
  · interval_cases hm : (dirField w).toNat
    · simpa [encode] using fun hzero => encI11_return_eq (f := 0#1) hop hzero hm
    · simpa [encode] using fun hzero => encI11_return_eq (f := 1#1) hop hzero hm
  · interval_cases hm : (dirField w).toNat <;> simp [encode, encP6_eq, *]

/-- Every opcode but LDA's: the one word is the encoding (R86). -/
theorem givesEncoded_decodeWord (operand : Word) (hop : opField w ≠ 0b00010#5) :
    GivesEncoded w (decodeWord true w operand) := by
  have hforms := givesEncoded_formDecoders w
  have hlast := givesEncoded_lastFormDecoders w
  simp only [List.forall_mem_cons] at hforms hlast
  unfold decodeWord
  split
  case h_2 h => exact absurd (BitVec.eq_of_toNat_eq h) hop
  all_goals simp +contextual [encode, encI7_eq, encI11_eq (w := w), encV6_eq, *]

/-- LDA: its word and the operand word behind it (R83, R113). -/
theorem encode_of_decodeWord_lda {operand : Word} {i : Instr} (hop : opField w = 0b00010#5)
    (h : decodeWord true w operand = .ok i) : encode i = [w, operand] := by
  rw [decodeWord_lda operand hop] at h
  obtain ⟨hstrict, rfl⟩ := needZero_eq_ok.mp h
  have hzero : immed7Field w = 0#7 := by simpa using hstrict
  rw [encode, encI7_eq (congrArg BitVec.toNat hop) hzero]

end

/-- Settles O2: the first word is put together from its fields, and LDA's second word is its operand. -/
theorem encodeOfDecodeGivesTheBytes : Obligations.EncodeOfDecodeGivesTheBytes := by
  intro bytes i rest h
  obtain ⟨b0, b1, more, rfl, ⟨hop, b2, b3, rfl, hdec⟩ | ⟨hop, rfl, hdec⟩⟩ := decode_cases h
  · refine ⟨givesWellFormed_decodeWord _ _ _ i hdec, ?_⟩
    simp [encodeBytes, encode_of_decodeWord_lda hop hdec, bytesOfWord]
  · refine ⟨givesWellFormed_decodeWord _ _ _ i hdec, ?_⟩
    simp [encodeBytes, givesEncoded_decodeWord _ hop i hdec, bytesOfWord]

end Sys2Proof.Machine

/-! PROOF. The must-be-zero bits: strict decoding is lax decoding but for them, and lax decoding does not read them. -/

namespace Sys2Proof.Machine

section
variable {w : Word}

/-! ## The must-be-zero bits of an opcode (R97) -/

/-- The opcode tells the must-be-zero bits, with the function field beside it under opcode 01001 only. -/
theorem mustBeZeroBits_congr {v : Word} (hop : opField w = opField v)
    (hmode : opField w = 0b01001#5 → modeField w = modeField v) : mustBeZeroBits w = mustBeZeroBits v := by
  have hop' : w.extractLsb' 11 5 = v.extractLsb' 11 5 := hop
  by_cases halu : opField w = 0b01001#5
  · have hmode' : w.extractLsb' 0 3 = v.extractLsb' 0 3 := hmode halu
    rw [mustBeZeroBits, mustBeZeroBits, hop', hmode']
  · have halu' : (v.extractLsb' 11 5).toNat ≠ 0b01001 := fun h => halu (hop.trans (BitVec.eq_of_toNat_eq h))
    rw [mustBeZeroBits, mustBeZeroBits, hop']
    split
    case h_11 => contradiction
    all_goals rfl

/-- The must-be-zero bits are those of any word with the opcode, but under 01001. -/
theorem mustBeZeroBits_eq (v : Word) (hop : (opField w).toNat = (opField v).toNat) (halu : opField v ≠ 0b01001#5) :
    mustBeZeroBits w = mustBeZeroBits v :=
  mustBeZeroBits_congr (BitVec.eq_of_toNat_eq hop) fun h => absurd ((BitVec.eq_of_toNat_eq hop).symm.trans h) halu

/-- NOT has must-be-zero bits; no other function under its opcode has (R97). -/
theorem mustBeZeroBits_not (hop : (opField w).toNat = 0b01001) (hmode : (modeField w).toNat = 0b111) :
    mustBeZeroBits w = 0x0078#16 :=
  mustBeZeroBits_congr (v := 0x4807#16) (BitVec.eq_of_toNat_eq hop) fun _ => BitVec.eq_of_toNat_eq hmode

theorem mustBeZeroBits_alu_ne_not (hop : (opField w).toNat = 0b01001) (hmode : (modeField w).toNat ≠ 0b111) :
    mustBeZeroBits w = 0#16 := by
  have hop' : (w.extractLsb' 11 5).toNat = 0b01001 := hop
  have hmode' : w.extractLsb' 0 3 ≠ 0b111#3 := fun h => hmode (congrArg BitVec.toNat h)
  rw [mustBeZeroBits, hop']
  exact if_neg hmode'

/-- A field without must-be-zero bits is the same when these are cleared. -/
theorem field_clearMustBeZero {m : Word} (hm : mustBeZeroBits w = m) {start len : Nat}
    (hkeep : m.extractLsb' start len = 0#len) :
    (clearMustBeZero w).extractLsb' start len = w.extractLsb' start len := by
  rw [clearMustBeZero, hm]
  apply BitVec.eq_of_getLsbD_eq
  intro i hi
  have hbit : m.getLsbD (start + i) = false := by
    simpa [hi] using congrArg (fun b : BitVec len => b.getLsbD i) hkeep
  by_cases hin : start + i < 16
  · simp [hi, hin, hbit, -BitVec.getLsbD_eq_getElem]
  · simp [hi, BitVec.getLsbD_of_ge _ _ (Nat.le_of_not_lt hin)]

theorem reg1_clearMustBeZero {m : Word} (hm : mustBeZeroBits w = m) (hkeep : m.extractLsb' 7 4 = 0#4) :
    reg1 (clearMustBeZero w) = reg1 w :=
  congrArg regOfField (field_clearMustBeZero hm hkeep)

theorem clearMustBeZero_of_none (h : mustBeZeroBits w = 0#16) : clearMustBeZero w = w := by
  rw [clearMustBeZero, h]
  exact BitVec.and_allOnes

/-- Clearing the must-be-zero bits keeps which these are. -/
theorem mustBeZeroBits_clearMustBeZero (w : Word) : mustBeZeroBits (clearMustBeZero w) = mustBeZeroBits w := by
  refine mustBeZeroBits_congr (opField_clearMustBeZero w) fun hop => ?_
  rw [opField_clearMustBeZero] at hop
  by_cases hmode : (modeField w).toNat = 0b111
  · exact field_clearMustBeZero (mustBeZeroBits_not (congrArg BitVec.toNat hop) hmode) rfl
  · rw [clearMustBeZero_of_none (mustBeZeroBits_alu_ne_not (congrArg BitVec.toNat hop) hmode)]

/-! ## Strict and lax decoding of one word -/

/-- What strict decoding makes of a lax one: the same, or the rejection of an accepted word for its must-be-zero bits. -/
def StrictOf (w : Word) (lax strict : Except DecodeError Instr) : Prop :=
  lax = strict ∨
    w &&& mustBeZeroBits w ≠ 0#16 ∧ strict = .error (.nonzeroReservedBits (opField w)) ∧ ∃ i, lax = .ok i

theorem StrictOf.refl (w : Word) (r : Except DecodeError Instr) : StrictOf w r r := .inl rfl

@[simp] theorem needZero_lax (w : Word) {n : Nat} (bits : BitVec n) (i : Instr) : needZero false w bits i = .ok i := rfl

/-- A must-be-zero field that is not 0 has a must-be-zero bit that is not 0. -/
theorem strictOf_needZero {m : Word} (hm : mustBeZeroBits w = m) {start len : Nat}
    (hmask : m.extractLsb' start len = BitVec.allOnes len) (i : Instr) :
    StrictOf w (needZero false w (w.extractLsb' start len) i) (needZero true w (w.extractLsb' start len) i) := by
  by_cases hzero : w.extractLsb' start len = 0#len
  · rw [hzero, needZero_zero, needZero_zero]
    exact .refl w _
  · refine .inr ⟨fun h => hzero ?_, by simp [needZero, hzero], i, rfl⟩
    calc w.extractLsb' start len
      _ = (w &&& mustBeZeroBits w).extractLsb' start len := by rw [BitVec.extractLsb'_and, hm, hmask, BitVec.and_allOnes]
      _ = 0#len := by rw [h, BitVec.extractLsb'_zero]

/-- R97, opcode by opcode: an opcode whose decoder asks for no zero bits decodes the same either way. -/
theorem strictOf_decodeWord (w operand : Word) : StrictOf w (decodeWord false w operand) (decodeWord true w operand) := by
  unfold decodeWord
  split
  case h_2 hop => exact strictOf_needZero (mustBeZeroBits_eq 0x1000#16 hop (by decide)) rfl _
  case h_7 hop =>
    unfold decodeStack
    split
    case h_5 => exact .refl w _
    all_goals exact strictOf_needZero (mustBeZeroBits_eq 0x3800#16 hop (by decide)) rfl _
  case h_9 hop =>
    have hlast := (modeField w).isLt
    unfold decodeAlu
    split
    case h_8 => exact strictOf_needZero (mustBeZeroBits_not hop (by simp only [imp_false] at *; omega)) rfl _
    all_goals exact .refl w _
  case h_12 hop => exact strictOf_needZero (mustBeZeroBits_eq 0x8800#16 hop (by decide)) rfl _
  case h_14 hop =>
    unfold decodeBranchReg
    split <;> exact strictOf_needZero (mustBeZeroBits_eq 0x9800#16 hop (by decide)) rfl _
  case h_15 hop => exact strictOf_needZero (mustBeZeroBits_eq 0xA000#16 hop (by decide)) rfl _
  case h_16 hop =>
    unfold decodeCallCond
    split <;> exact strictOf_needZero (mustBeZeroBits_eq 0xA800#16 hop (by decide)) rfl _
  case h_17 hop => exact strictOf_needZero (mustBeZeroBits_eq 0xB000#16 hop (by decide)) rfl _
  case h_18 hop =>
    unfold decodeReturn
    split <;> exact strictOf_needZero (mustBeZeroBits_eq 0xB800#16 hop (by decide)) rfl _
  case h_21 hop => exact strictOf_needZero (mustBeZeroBits_eq 0xD000#16 hop (by decide)) rfl _
  case h_22 hop => exact strictOf_needZero (mustBeZeroBits_eq 0xD800#16 hop (by decide)) rfl _
  all_goals exact .refl w _

theorem needIndex_ne_reservedBits (w : Word) (index : Reg) (i : Instr) (op : BitVec 5) :
    needIndex w index i ≠ .error (.nonzeroReservedBits op) := by
  unfold needIndex
  split <;> exact nofun

/-- Lax decoding rejects no word for its must-be-zero bits, in no decoder of an opcode with several forms. -/
theorem formDecoders_lax_ne_reservedBits (w : Word) (op : BitVec 5) :
    ∀ r ∈ [decodeLdb w, decodeLdw w, decodeStb w, decodeStw w, decodeStack false w, decodeShl w, decodeAlu false w,
      decodeShr w, decodeBranchImm w, decodeBranchReg false w, decodeCallCond false w, decodeReturn false w, decodeIo w,
      decodeIrq w], r ≠ .error (.nonzeroReservedBits op) := by
  simp only [List.forall_mem_cons, List.not_mem_nil, false_implies, implies_true, and_true]
  and_intros
  all_goals
    simp only [decodeLdb, decodeLdw, decodeStb, decodeStw, decodeStack, decodeShl, decodeAlu, decodeShr, decodeBranchImm,
      decodeBranchReg, decodeCallCond, decodeReturn, decodeIo, decodeIrq]
    split <;> simp [needIndex_ne_reservedBits, badMode]

theorem decodeWord_lax_ne_reservedBits (w operand : Word) (op : BitVec 5) :
    decodeWord false w operand ≠ .error (.nonzeroReservedBits op) := by
  have hforms := formDecoders_lax_ne_reservedBits w op
  simp only [List.forall_mem_cons] at hforms
  unfold decodeWord
  split <;> simp [hforms]

/-- Lax decoding reads no must-be-zero bit: every other field it reads is kept when these are cleared (R97). -/
theorem decodeWord_lax_clearMustBeZero (w operand : Word) :
    decodeWord false (clearMustBeZero w) operand = decodeWord false w operand := by
  by_cases hnone : mustBeZeroBits w = 0#16
  · rw [clearMustBeZero_of_none hnone]
  unfold decodeWord
  rw [opField_clearMustBeZero]
  split
  case h_2 hop => rw [reg1_clearMustBeZero (mustBeZeroBits_eq 0x1000#16 hop (by decide)) rfl]; rfl
  case h_7 hop =>
    have hm := mustBeZeroBits_eq 0x3800#16 hop (by decide)
    have hmode : modeField (clearMustBeZero w) = modeField w := field_clearMustBeZero hm rfl
    simp only [decodeStack, badMode, opField_clearMustBeZero, hmode, reg1_clearMustBeZero hm rfl, needZero_lax]
  case h_9 hop =>
    have hnot : (modeField w).toNat = 0b111 := by
      by_contra hmode
      exact hnone (mustBeZeroBits_alu_ne_not hop hmode)
    have hm := mustBeZeroBits_not hop hnot
    have hmode : modeField (clearMustBeZero w) = modeField w := field_clearMustBeZero hm rfl
    simp only [decodeAlu, hmode, hnot, reg1_clearMustBeZero hm rfl, needZero_lax]
  case h_12 hop => rw [reg1_clearMustBeZero (mustBeZeroBits_eq 0x8800#16 hop (by decide)) rfl]; rfl
  case h_14 hop =>
    have hm := mustBeZeroBits_eq 0x9800#16 hop (by decide)
    have hcc : ccField (clearMustBeZero w) = ccField w := field_clearMustBeZero hm rfl
    simp only [decodeBranchReg, hcc, reg1_clearMustBeZero hm rfl, needZero_lax]
  case h_15 hop => rw [reg1_clearMustBeZero (mustBeZeroBits_eq 0xA000#16 hop (by decide)) rfl]; rfl
  case h_16 hop =>
    have hm := mustBeZeroBits_eq 0xA800#16 hop (by decide)
    have hcc : ccField (clearMustBeZero w) = ccField w := field_clearMustBeZero hm rfl
    simp only [decodeCallCond, hcc, reg1_clearMustBeZero hm rfl, needZero_lax]
  case h_17 hop =>
    have hm := mustBeZeroBits_eq 0xB000#16 hop (by decide)
    have hvect : vect6Field (clearMustBeZero w) = vect6Field w := field_clearMustBeZero hm rfl
    rw [hvect]; rfl
  case h_18 hop =>
    have hm := mustBeZeroBits_eq 0xB800#16 hop (by decide)
    have hdir : dirField (clearMustBeZero w) = dirField w := field_clearMustBeZero hm rfl
    simp only [decodeReturn, hdir, needZero_lax]
  case h_21 | h_22 | h_25 => rfl
  all_goals
    next hop =>
      unfold opField at hop
      exact absurd (by simp [mustBeZeroBits, hop]) hnone

end

/-- A word without a 1 in its must-be-zero bits is decoded strictly as it is laxly. -/
theorem decodeWord_strict_of_zero {w : Word} (operand : Word) (h : w &&& mustBeZeroBits w = 0#16) :
    decodeWord true w operand = decodeWord false w operand := by
  rcases strictOf_decodeWord w operand with hsame | ⟨hbits, -⟩
  · exact hsame.symm
  · exact absurd h hbits

theorem clearMustBeZero_and_mustBeZeroBits (w : Word) :
    clearMustBeZero w &&& mustBeZeroBits (clearMustBeZero w) = 0#16 := by
  rw [mustBeZeroBits_clearMustBeZero, clearMustBeZero, BitVec.and_assoc, BitVec.not_and_self]
  exact BitVec.and_zero

/-- With the must-be-zero bits cleared strict decoding is the lax decoding of the word (R97). -/
theorem decodeWord_strict_clearMustBeZero (w operand : Word) :
    decodeWord true (clearMustBeZero w) operand = decodeWord false w operand := by
  rw [decodeWord_strict_of_zero operand (clearMustBeZero_and_mustBeZeroBits w), decodeWord_lax_clearMustBeZero]

/-- Settles O5: lax decoding does not read the bits that strict decoding rejects. -/
theorem laxDecodingIgnoresReservedBits : Obligations.LaxDecodingIgnoresReservedBits := by
  intro w operand
  refine ⟨(decodeWord_strict_clearMustBeZero w operand).symm, fun i h => ?_, fun op h => ?_, fun e hother h => ?_⟩
  all_goals rcases strictOf_decodeWord w operand with hsame | ⟨hbits, hrejected, i', hlax⟩
  · rw [hsame, h]
  · rw [hrejected] at h
    cases h
  · exact absurd (hsame.trans h) (decodeWord_lax_ne_reservedBits w operand op)
  · exact ⟨hbits, i', (decodeWord_strict_clearMustBeZero w operand).trans hlax, hlax⟩
  · rw [hsame, h]
  · rw [hrejected] at h
    exact absurd (Except.error.inj h).symm (hother _)

end Sys2Proof.Machine

/-! PROOF. The opcode table: its rows are disjoint, and the strict decoder accepts exactly what some row accepts. -/

namespace Sys2Proof.Machine

/-! ## What every row says (R96, R105) -/

/-- Two rows that differ in a bit both masks hold have no word in common. -/
theorem not_accepts_both {r q : OpcodeRow} (h : r.pattern &&& q.mask ≠ q.pattern &&& r.mask) (w : Word) :
    ¬(r.accepts w = true ∧ q.accepts w = true) := by
  rintro ⟨hr, hq⟩
  refine h ?_
  rw [← eq_of_beq hr, ← eq_of_beq hq, BitVec.and_assoc, BitVec.and_assoc, BitVec.and_comm r.mask]

theorem opcodeRows_differ : opcodeRows.Pairwise fun r q => r.pattern &&& q.mask ≠ q.pattern &&& r.mask := by
  decide

/-- The opcodes with a `mode` or function field, each with the number of its values that have a row, the lowest ones
(R87, R88, R90). -/
def modeCounts : List (BitVec 5 × Nat) :=
  [(0b00011#5, 4), (0b00100#5, 5), (0b00101#5, 4), (0b00110#5, 4), (0b00111#5, 4), (0b01000#5, 1), (0b01001#5, 8),
    (0b01010#5, 1), (0b11001#5, 2)]

/-- The index registers, each with the opcodes whose index mode names it (R87). -/
def indexRegisters : List (List (BitVec 5) × Reg) :=
  [([0b00011#5, 0b00100#5], Reg.ip0), ([0b00101#5, 0b00110#5], Reg.ip1)]

/-- The eight unassigned opcodes (R98). -/
def unassignedOpcodes : List (BitVec 5) :=
  [0b00000#5, 0b01011#5, 0b01100#5, 0b01101#5, 0b01110#5, 0b01111#5, 0b11110#5, 0b11111#5]

theorem opField_mask : ∀ row ∈ opcodeRows, opField row.mask = BitVec.allOnes 5 := by
  decide

theorem opField_row_ne : ∀ op ∈ unassignedOpcodes, ∀ row ∈ opcodeRows, opField row.pattern ≠ op := by
  decide

theorem modeField_row : ∀ p ∈ modeCounts, ∀ row ∈ opcodeRows, opField row.pattern = p.1 →
    modeField row.mask = BitVec.allOnes 3 ∧ (modeField row.pattern).toNat < p.2 := by
  decide

theorem indexField_row : ∀ p ∈ indexRegisters, ∀ row ∈ opcodeRows,
    modeField row.pattern = 0b010#3 → opField row.pattern ∈ p.1 →
      r2Field row.mask = BitVec.allOnes 4 ∧ reg2 row.pattern = p.2 := by
  decide

/-- A row's mask holds its must-be-zero bits, and its pattern has them 0 (R97). -/
theorem mustBeZeroBits_row : ∀ row ∈ opcodeRows,
    row.mask &&& mustBeZeroBits row.pattern = mustBeZeroBits row.pattern ∧
      row.pattern &&& mustBeZeroBits row.pattern = 0#16 := by
  decide

/-! ## A word that some row accepts is decoded -/

/-- A word has a row's value in every field the row's mask holds whole. -/
theorem field_eq_of_accepts {row : OpcodeRow} {w : Word} (h : row.accepts w = true) {start len : Nat}
    (hmask : row.mask.extractLsb' start len = BitVec.allOnes len) :
    w.extractLsb' start len = row.pattern.extractLsb' start len := by
  rw [← eq_of_beq h, BitVec.extractLsb'_and, hmask, BitVec.and_allOnes]

section
variable {row : OpcodeRow} {w : Word} (hrow : row ∈ opcodeRows) (h : row.accepts w = true)
include hrow h

theorem opField_eq_of_accepts : opField w = opField row.pattern :=
  field_eq_of_accepts h (opField_mask row hrow)

theorem modeField_eq_of_accepts {op : BitVec 5} {count : Nat} (hp : (op, count) ∈ modeCounts) (hop : opField w = op) :
    modeField w = modeField row.pattern :=
  field_eq_of_accepts h (modeField_row _ hp row hrow ((opField_eq_of_accepts hrow h).symm.trans hop)).1

/-- Its `mode` or function value is no reserved one (R87, R88, R90). -/
theorem modeField_lt_of_accepts {op : BitVec 5} {count : Nat} (hp : (op, count) ∈ modeCounts) (hop : opField w = op) :
    (modeField w).toNat < count := by
  rw [modeField_eq_of_accepts hrow h hp hop]
  exact (modeField_row _ hp row hrow ((opField_eq_of_accepts hrow h).symm.trans hop)).2

/-- In index mode it names the index register (R87). -/
theorem reg2_of_accepts {op : BitVec 5} {count : Nat} (hp : (op, count) ∈ modeCounts) (hop : opField w = op)
    {ops : List (BitVec 5)} {index : Reg} (hindex : (ops, index) ∈ indexRegisters) (hops : op ∈ ops)
    (hmode : (modeField w).toNat = 0b010) : reg2 w = index := by
  have hop' := (opField_eq_of_accepts hrow h).symm.trans hop
  have hmode' := (modeField_eq_of_accepts hrow h hp hop).symm.trans (BitVec.eq_of_toNat_eq (y := 0b010#3) hmode)
  obtain ⟨hmask, hreg⟩ := indexField_row _ hindex row hrow hmode' (hop' ▸ hops)
  have hr2 : r2Field w = r2Field row.pattern := field_eq_of_accepts h hmask
  rw [reg2, hr2]
  exact hreg

/-- It has no 1 in its must-be-zero bits (R97). -/
theorem and_mustBeZeroBits_of_accepts : w &&& mustBeZeroBits w = 0#16 := by
  obtain ⟨hmask, hzero⟩ := mustBeZeroBits_row row hrow
  have hbits : mustBeZeroBits w = mustBeZeroBits row.pattern :=
    mustBeZeroBits_congr (opField_eq_of_accepts hrow h) (modeField_eq_of_accepts hrow h (count := 8) (by decide))
  calc w &&& mustBeZeroBits w
    _ = w &&& row.mask &&& mustBeZeroBits row.pattern := by rw [hbits, BitVec.and_assoc, hmask]
    _ = 0#16 := by rw [eq_of_beq h, hzero]

/-- Its opcode is assigned (R98). -/
theorem opField_notMem_of_accepts : opField w ∉ unassignedOpcodes := fun hop =>
  opField_row_ne _ hop row hrow (opField_eq_of_accepts hrow h).symm

end

/-- A load or store with a mode that is not reserved and, in index mode, the index register is decoded (R87). -/
theorem loadStoreDecoders_ok (w : Word) :
    ∀ p ∈ [(decodeLdb w, 4, Reg.ip0), (decodeLdw w, 5, Reg.ip0), (decodeStb w, 4, Reg.ip1), (decodeStw w, 4, Reg.ip1)],
      (modeField w).toNat < p.2.1 → ((modeField w).toNat = 0b010 → reg2 w = p.2.2) → ∃ i, p.1 = .ok i := by
  simp only [List.forall_mem_cons, List.not_mem_nil, false_implies, implies_true, and_true]
  and_intros
  all_goals
    intro hcount hindex
    simp only [decodeLdb, decodeLdw, decodeStb, decodeStw]
    interval_cases (modeField w).toNat <;> simp [needIndex_eq_ok, hindex]

theorem modeDecoders_ok (w : Word) :
    ∀ p ∈ [(decodeStack false w, 4), (decodeShl w, 1), (decodeShr w, 1), (decodeIrq w, 2)],
      (modeField w).toNat < p.2 → ∃ i, p.1 = .ok i := by
  simp only [List.forall_mem_cons, List.not_mem_nil, false_implies, implies_true, and_true]
  and_intros
  all_goals
    intro hcount
    simp only [decodeStack, decodeShl, decodeShr, decodeIrq]
    interval_cases (modeField w).toNat <;> simp

/-- The decoders of fields without a reserved value decode every word laxly. -/
theorem totalDecoders_ok (w : Word) :
    ∀ r ∈ [decodeAlu false w, decodeBranchImm w, decodeBranchReg false w, decodeCallCond false w, decodeReturn false w,
      decodeIo w], ∃ i, r = .ok i := by
  simp only [List.forall_mem_cons, List.not_mem_nil, false_implies, implies_true, and_true]
  and_intros
  all_goals
    simp only [decodeAlu, decodeBranchImm, decodeBranchReg, decodeCallCond, decodeReturn, decodeIo]
    split <;> simp

/-- A word some row accepts is rejected for none of the reasons of R96 to R98. -/
theorem decodeWord_of_accepts {row : OpcodeRow} {w : Word} (hrow : row ∈ opcodeRows) (h : row.accepts w = true)
    (operand : Word) : ∃ i, decodeWord true w operand = .ok i := by
  have hmode {op : BitVec 5} {count : Nat} (hp : (op, count) ∈ modeCounts) (hop : (opField w).toNat = op.toNat) :=
    modeField_lt_of_accepts hrow h hp (BitVec.eq_of_toNat_eq hop)
  have hloads := loadStoreDecoders_ok w
  have hmodes := modeDecoders_ok w
  have htotal := totalDecoders_ok w
  simp only [List.forall_mem_cons] at hloads hmodes htotal
  obtain ⟨hldb, hldw, hstb, hstw, -⟩ := hloads
  obtain ⟨hstack, hshl, hshr, hirq, -⟩ := hmodes
  rw [decodeWord_strict_of_zero operand (and_mustBeZeroBits_of_accepts hrow h)]
  unfold decodeWord
  split
  case h_3 hop =>
    have hp : (0b00011#5, 4) ∈ modeCounts := by decide
    exact hldb (hmode hp hop)
      (reg2_of_accepts hrow h hp (BitVec.eq_of_toNat_eq hop) (ops := [0b00011#5, 0b00100#5]) (by decide) (by decide))
  case h_4 hop =>
    have hp : (0b00100#5, 5) ∈ modeCounts := by decide
    exact hldw (hmode hp hop)
      (reg2_of_accepts hrow h hp (BitVec.eq_of_toNat_eq hop) (ops := [0b00011#5, 0b00100#5]) (by decide) (by decide))
  case h_5 hop =>
    have hp : (0b00101#5, 4) ∈ modeCounts := by decide
    exact hstb (hmode hp hop)
      (reg2_of_accepts hrow h hp (BitVec.eq_of_toNat_eq hop) (ops := [0b00101#5, 0b00110#5]) (by decide) (by decide))
  case h_6 hop =>
    have hp : (0b00110#5, 4) ∈ modeCounts := by decide
    exact hstw (hmode hp hop)
      (reg2_of_accepts hrow h hp (BitVec.eq_of_toNat_eq hop) (ops := [0b00101#5, 0b00110#5]) (by decide) (by decide))
  case h_7 hop => exact hstack (hmode (op := 0b00111#5) (by decide) hop)
  case h_8 hop => exact hshl (hmode (op := 0b01000#5) (by decide) hop)
  case h_10 hop => exact hshr (hmode (op := 0b01010#5) (by decide) hop)
  case h_20 hop => exact hirq (hmode (op := 0b11001#5) (by decide) hop)
  case h_25 =>
    refine absurd ?_ (opField_notMem_of_accepts hrow h)
    have hrange := (opField w).isLt
    simp only [unassignedOpcodes, List.mem_cons, List.not_mem_nil, or_false, ← BitVec.toNat_inj, BitVec.toNat_ofNat,
      imp_false] at *
    omega
  all_goals simp [htotal]

/-! ## The word of an encoded instruction is one its row accepts -/

section
variable (op : BitVec 5) (r1 r2 : Reg)

theorem encRRM_and_modeMask (m : BitVec 3) : encRRM op r1 r2 m &&& 0xF807#16 = encRRM op 0 0 m := by
  change (op ++ fieldOfReg r1 ++ fieldOfReg r2 ++ m) &&& (BitVec.allOnes 5 ++ 0#4 ++ 0#4 ++ BitVec.allOnes 3) = _
  simp only [BitVec.and_append, BitVec.and_allOnes, BitVec.and_zero]; rfl

theorem encRRM_and_r2Mask (m : BitVec 3) : encRRM op r1 r2 m &&& 0xF87F#16 = encRRM op 0 r2 m := by
  change (op ++ fieldOfReg r1 ++ fieldOfReg r2 ++ m) &&&
    (BitVec.allOnes 5 ++ 0#4 ++ BitVec.allOnes 4 ++ BitVec.allOnes 3) = _
  simp only [BitVec.and_append, BitVec.and_allOnes, BitVec.and_zero]; rfl

theorem encI7_and_opMask (v : BitVec 7) : encI7 op r1 v &&& 0xF800#16 = encI7 op 0 0#7 := by
  change (op ++ fieldOfReg r1 ++ v) &&& (BitVec.allOnes 5 ++ 0#4 ++ 0#7) = _
  simp only [BitVec.and_append, BitVec.and_allOnes, BitVec.and_zero]; rfl

theorem encI7_and_lowMask (v : BitVec 7) : encI7 op r1 v &&& 0xF87F#16 = encI7 op 0 v := by
  change (op ++ fieldOfReg r1 ++ v) &&& (BitVec.allOnes 5 ++ 0#4 ++ BitVec.allOnes 7) = _
  simp only [BitVec.and_append, BitVec.and_allOnes, BitVec.and_zero]; rfl

theorem encI11_and_opMask (v : BitVec 11) : encI11 op v &&& 0xF800#16 = encI11 op 0#11 := by
  change (op ++ v) &&& (BitVec.allOnes 5 ++ 0#11) = _
  simp only [BitVec.and_append, BitVec.and_allOnes, BitVec.and_zero]; rfl

theorem encI9C_and_ccMask (v : BitVec 9) (cc : BitVec 2) : encI9C op v cc &&& 0xF803#16 = encI9C op 0#9 cc := by
  change (op ++ v ++ cc) &&& (BitVec.allOnes 5 ++ 0#9 ++ BitVec.allOnes 2) = _
  simp only [BitVec.and_append, BitVec.and_allOnes, BitVec.and_zero]; rfl

theorem encV6_and_zeroMask (v : BitVec 6) : encV6 op v &&& 0xF81F#16 = encV6 op 0#6 := by
  change (op ++ v ++ 0#5) &&& (BitVec.allOnes 5 ++ 0#6 ++ BitVec.allOnes 5) = _
  simp only [BitVec.and_append, BitVec.and_allOnes, BitVec.and_zero]; rfl

theorem encP6_and_dirMask (port : Nat) (f : BitVec 1) : encP6 op r1 port f &&& 0xF801#16 = encP6 op 0 0 f := by
  change (op ++ fieldOfReg r1 ++ BitVec.ofNat 6 port ++ f) &&& (BitVec.allOnes 5 ++ 0#4 ++ 0#6 ++ BitVec.allOnes 1) = _
  simp only [BitVec.and_append, BitVec.and_allOnes, BitVec.and_zero]; rfl

theorem encQ8_and_modeMask (q : Byte) (f : BitVec 3) : encQ8 op q f &&& 0xF807#16 = encQ8 op 0#8 f := by
  change (op ++ q ++ f) &&& (BitVec.allOnes 5 ++ 0#8 ++ BitVec.allOnes 3) = _
  simp only [BitVec.and_append, BitVec.and_allOnes, BitVec.and_zero]; rfl

end

/-- The first word of every instruction's encoding, format by format (R82, R105). -/
theorem opcodeRow_accepts_encode {i : Instr} {w : Word} {rest : List Word} (h : encode i = w :: rest) :
    ∃ row, opcodeRow i = some row ∧ row.accepts w = true := by
  cases i with
  | ldi d imm => cases h; exact ⟨_, rfl, beq_iff_eq.mpr (encI7_and_opMask ..)⟩
  | lda _ _ | brReg _ | jsr _ => cases h; exact ⟨_, rfl, beq_iff_eq.mpr (encI7_and_lowMask ..)⟩
  | ldbIdx _ | ldwIdx _ | stbIdx _ | stwIdx _ => cases h; exact ⟨_, rfl, beq_iff_eq.mpr (encRRM_and_r2Mask ..)⟩
  | pushb r | popb r | pushw r | popw r | bitNot r =>
    cases h; exact ⟨_, rfl, beq_iff_eq.mpr (encRRM_and_r2Mask _ r 0 _)⟩
  | brnReg r | brzReg r | brcReg r | broReg r | jsrn r | jsrz r | jsrc r | jsro r =>
    cases h
    exact ⟨_, rfl, beq_iff_eq.mpr ((congrArg (· &&& _) (encI7_append ..)).trans (encI7_and_lowMask ..))⟩
  | brImm _ | ldos _ | ldro _ => cases h; exact ⟨_, rfl, beq_iff_eq.mpr (encI11_and_opMask ..)⟩
  | brnImm _ | brzImm _ | brcImm _ | broImm _ => cases h; exact ⟨_, rfl, beq_iff_eq.mpr (encI9C_and_ccMask ..)⟩
  | trap _ => cases h; exact ⟨_, rfl, beq_iff_eq.mpr (encV6_and_zeroMask ..)⟩
  | ret | reti | halt | nop => cases h; exact ⟨_, rfl, rfl⟩
  | portIn _ _ | portOut _ _ => cases h; exact ⟨_, rfl, beq_iff_eq.mpr (encP6_and_dirMask ..)⟩
  | ei _ | di _ => cases h; exact ⟨_, rfl, beq_iff_eq.mpr (encQ8_and_modeMask ..)⟩
  | _ => cases h; exact ⟨_, rfl, beq_iff_eq.mpr (encRRM_and_modeMask ..)⟩

/-- A word strict decoding accepts is the first word of the encoding of the instruction (R96). -/
theorem encode_of_decodeWord {w operand : Word} {i : Instr} (h : decodeWord true w operand = .ok i) :
    ∃ rest, encode i = w :: rest := by
  by_cases hop : opField w = 0b00010#5
  · exact ⟨[operand], encode_of_decodeWord_lda hop h⟩
  · exact ⟨[], givesEncoded_decodeWord operand hop i h⟩

/-- Settles O3: a decoded word is encoded as its row prints it, and a word of a row has no reason to be rejected. -/
theorem decoderAcceptsExactlyTheTable : Obligations.DecoderAcceptsExactlyTheTable := by
  refine ⟨rfl, opcodeRows_differ.imp not_accepts_both, fun w operand => ⟨fun i h => ?_, ?_⟩⟩
  · obtain ⟨rest, henc⟩ := encode_of_decodeWord h
    exact opcodeRow_accepts_encode henc
  · rintro ⟨row, hrow, h⟩
    exact decodeWord_of_accepts hrow h operand

end Sys2Proof.Machine

/-! PROOF. The outcomes of an instruction and of a step: every instruction completes but DIV by zero, a step that fetches runs
the decoded instruction, and the two faults are raised exactly where their rules say. -/

namespace Sys2Proof.Machine

/-! ## The outcomes of an instruction (R110, R154, R162) -/

/-- Settles O10: the one arm with a condition is DIV's. -/
theorem everyInstructionCompletes : Obligations.EveryInstructionCompletes := by
  intro i s
  cases i with
  | div d r =>
    by_cases hr : s.reg r = 0#16
    · exact .inr ⟨d, r, rfl, hr, execDiv_zero hr⟩
    · exact .inl ⟨_, execDiv_nonzero hr⟩
  | _ => exact .inl ⟨_, rfl⟩

/-- The one fault of an instruction is DIV's, at its own address (R154, R251). -/
theorem exec_eq_fault_iff {i : Instr} {s : State} {f : Fault} :
    exec i s = .fault f ↔ f = .divideByZero (s.pc - 2) ∧ ∃ d r, i = .div d r ∧ s.reg r = 0#16 := by
  constructor
  · intro h
    rcases everyInstructionCompletes i s with ⟨t, hnext⟩ | ⟨d, r, hi, hr, hfault⟩
    · rw [hnext] at h
      cases h
    · rw [hfault] at h
      cases h
      exact ⟨rfl, d, r, hi, hr⟩
  · rintro ⟨rfl, d, r, rfl, hr⟩
    exact execDiv_zero hr

/-! ## What is fetched (R96, R300) -/

/-- The fetched instruction is that of the word at `pc`, with the word behind it as LDA's operand. -/
theorem State.fetchInstr_eq_decodeWord (s : State) :
    s.fetchInstr = decodeWord Config.strictReservedFields (s.readWord s.pc)
      (if hasOperandWord (s.readWord s.pc) then s.readWord (s.pc + 2) else 0#16) := by
  rw [State.fetchInstr, State.fetchBytes_eq_words]
  generalize s.readWord s.pc = w, s.readWord (s.pc + 2) = operand
  cases hone : hasOperandWord w with
  | false => cases hdec : decodeWord Config.strictReservedFields w 0#16 <;> simp [bytesOfWord, decode, hone, hdec]
  | true => cases hdec : decodeWord Config.strictReservedFields w operand <;> simp [bytesOfWord, decode, hone, hdec]

/-- Strict decoding rejects a word exactly when no row of the opcode table accepts it (R96, R99). -/
theorem decodeWord_eq_error_iff (w operand : Word) :
    (∃ e, decodeWord true w operand = .error e) ↔ ∀ row ∈ opcodeRows, row.accepts w = false := by
  obtain ⟨-, -, htable⟩ := decoderAcceptsExactlyTheTable
  obtain ⟨hgives, haccepts⟩ := htable w operand
  constructor
  · rintro ⟨e, he⟩ row hrow
    rw [Bool.eq_false_iff]
    intro hacc
    obtain ⟨i, hi⟩ := haccepts ⟨row, hrow, hacc⟩
    rw [he] at hi
    cases hi
  · intro hnone
    cases hdec : decodeWord true w operand with
    | error e => exact ⟨e, rfl⟩
    | ok i =>
      obtain ⟨row, hrow, hacc⟩ := hgives i hdec
      rw [hnone row (List.mem_of_getElem? hrow)] at hacc
      cases hacc

theorem State.fetchInstr_eq_error_iff (s : State) :
    (∃ e, s.fetchInstr = .error e) ↔ ∀ row ∈ opcodeRows, row.accepts (s.readWord s.pc) = false := by
  rw [State.fetchInstr_eq_decodeWord]
  exact decodeWord_eq_error_iff _ _

/-! ## The outcomes of a step (R251, R300) -/

theorem step_of_fetches {s : State} (h : s.fetches) : step s = fetchExecute s :=
  step_fetch h.1 h.2

/-- Neither a halted machine nor an interrupt entry faults: a step that faults fetches. -/
theorem fetches_of_step_fault {s : State} {f : Fault} (h : step s = .fault f) : s.fetches := by
  cases hrb : s.rb with
  | false =>
    rw [step_halted hrb] at h
    cases h
  | true =>
    cases hp : s.pendingLine with
    | some n =>
      rw [step_interrupt hrb hp] at h
      cases h
    | none => exact ⟨hrb, hp⟩

theorem onNext_eq_fault_iff {g : State → State} {o : Host.Outcome State Fault Refusal} {f : Fault} :
    onNext g o = .fault f ↔ o = .fault f := by
  cases o <;> simp

/-- A fetched instruction faults as a DIV by zero at its own address, before the fetch moved `pc` (R154). -/
theorem exec_fetched_eq_fault_iff {i : Instr} {s : State} {f : Fault} :
    onNext State.nextBoundary (exec i s.fetched) = .fault f ↔
      f = .divideByZero s.pc ∧ ∃ d r, i = .div d r ∧ s.reg r = 0#16 := by
  rw [onNext_eq_fault_iff, exec_eq_fault_iff, State.fetched_pc, BitVec.add_sub_cancel]
  rfl

theorem fetchExecute_eq_fault_iff {s : State} {f : Fault} :
    fetchExecute s = .fault f ↔
      (f = .reservedEncoding (s.readWord s.pc) s.pc ∧ ∃ e, s.fetchInstr = .error e) ∨
        (f = .divideByZero s.pc ∧ ∃ d r, s.fetchInstr = .ok (.div d r) ∧ s.reg r = 0#16) := by
  rw [fetchExecute_eq]
  cases s.fetchInstr with
  | error e => simp [eq_comm]
  | ok i => simpa using exec_fetched_eq_fault_iff

/-- Settles O8: a step that faults fetches, and fails to decode or runs a DIV by zero. -/
theorem faultsAreReservedEncodingAndDivideByZero : Obligations.FaultsAreReservedEncodingAndDivideByZero := by
  intro s f
  rw [← State.fetchInstr_eq_error_iff, ← fetchExecute_eq_fault_iff]
  constructor
  · intro h
    have hfetch := fetches_of_step_fault h
    exact ⟨hfetch, step_of_fetches hfetch ▸ h⟩
  · rintro ⟨hfetch, h⟩
    exact (step_of_fetches hfetch).trans h

/-- Settles O7: the bytes at `pc` are the fetched ones, and nothing is refused under the default policy. -/
theorem stepRunsTheDecodedInstruction : Obligations.StepRunsTheDecodedInstruction := by
  intro s i rest hfetch hdec
  have hinstr : s.fetchInstr = .ok i := by
    rw [State.fetchInstr, State.fetchBytes, hdec]
  refine ⟨?_, fun t => rfl⟩
  rw [step_of_fetches hfetch, fetchExecute_eq, hinstr]
  rfl

end Sys2Proof.Machine

/-! PROOF. The reserved bits of SW in what RETI, TRAP and interrupt entry write; where each instruction leaves `pc`; a line
taken twice; memory before any store; and the machine after reset. -/

namespace Sys2Proof.Machine

/-! ## A step at which a line is pending (R257) -/

/-- It can only be the entry of that line. -/
theorem eq_takeInterrupt_of_step {s t : State} {n : Fin 8} (hp : s.pendingLine = some n) (h : step s = .next t) :
    t = (s.takeInterrupt n).nextBoundary := by
  obtain ⟨hrb, -⟩ := step_cases h
  rw [step_interrupt hrb hp] at h
  cases h
  rfl

/-! ## The reserved bits of SW (R29) -/

/-- The reserved bits are the low half of the high byte (R27). -/
theorem reservedBits_hob (v : Word) : (hob v).extractLsb' 0 4 = v.extractLsb' 8 4 := by
  ext i hi
  have hin : i < 8 := by omega
  simp [hob, hin]

/-- The pushed SW has its reserved bits 0 (R265). -/
theorem State.reservedBits_pushFrame (s : State) :
    (s.pushFrame.readByte (s.reg Reg.sp - 4)).extractLsb' 0 4 = 0#4 := by
  obtain ⟨hswHigh, -⟩ := s.readByte_pushFrame_same
  rw [hswHigh, reservedBits_hob, State.swValue, reservedBits_and_swMask]

/-- Settles O18: no step sets a reserved bit, RETI drops them, and TRAP and interrupt entry push the same frame. -/
theorem reservedStatusBitsStayZero : Obligations.ReservedStatusBitsStayZero := by
  refine ⟨fun s t => step_reservedBits, fun s t h => ?_, fun v s t h => ?_, fun s t n hp h => ?_⟩
  · cases h
    exact s.sw_leaveVector
  · cases h
    exact s.reservedBits_pushFrame
  · rw [eq_takeInterrupt_of_step hp h]
    exact s.reservedBits_pushFrame

/-! ## Where `pc` goes (R25) -/

/-- A conditional call goes to the register's value, read before the push, when its flag is 1 (R186). -/
theorem State.pc_callIf (s : State) (cc : Cond) (r : Reg) : (s.callIf cc r).pc = if s.cond cc then s.reg r else s.pc := by
  rw [State.callIf_eq]
  split <;> rfl

/-- Settles O19: each form that sets `pc` is one write of it, conditional or not; the frame tells of every other instruction. -/
theorem programCounterChangesOnlyWhereStated : Obligations.ProgramCounterChangesOnlyWhereStated := by
  refine ⟨fun i s t h => ⟨?_, ?_, ?_, ?_, ?_, ?_, ?_, ?_, ?_, ?_, ?_, ?_, ?_, ?_, (exec_keeps h).parts .pc⟩,
    fun s t n hp h => ?_⟩
  · rintro d v rfl; cases h; rfl
  · rintro off rfl; cases h; rfl
  · rintro r (rfl | rfl) <;> cases h <;> rfl
  · rintro v rfl; cases h; rfl
  · rintro rfl; cases h; rfl
  · rintro rfl; cases h; rw [State.leaveVector_eq]
  · rintro off rfl; cases h; exact s.pc_branchIf .n _
  · rintro r (rfl | rfl) <;> cases h; exacts [s.pc_branchIf .n _, s.pc_callIf .n r]
  · rintro off rfl; cases h; exact s.pc_branchIf .z _
  · rintro r (rfl | rfl) <;> cases h; exacts [s.pc_branchIf .z _, s.pc_callIf .z r]
  · rintro off rfl; cases h; exact s.pc_branchIf .c _
  · rintro r (rfl | rfl) <;> cases h; exacts [s.pc_branchIf .c _, s.pc_callIf .c r]
  · rintro off rfl; cases h; exact s.pc_branchIf .o _
  · rintro r (rfl | rfl) <;> cases h; exacts [s.pc_branchIf .o _, s.pc_callIf .o r]
  · rw [eq_takeInterrupt_of_step hp h]
    rfl

/-! ## Memory (R66) -/

/-- An address that is not listed holds no value the model knows (R40). -/
theorem Memory.lookup_eq_none {m : Memory} {a : Nat} (h : ∀ c ∈ m, c.1 ≠ a) : m.lookup a = none := by
  induction m with
  | nil => rfl
  | cons c rest ih =>
    obtain ⟨hc, hrest⟩ := List.forall_mem_cons.mp h
    rw [Memory.lookup, if_neg (Ne.symm hc), ih hrest]

/-- Settles O21: a read after a write, and a read of an address nothing is listed for. -/
theorem byteReadsSeeTheLatestStore : Obligations.ByteReadsSeeTheLatestStore := by
  refine ⟨fun s a k b => s.readByte_writeByte a k b, fun s k h => ?_⟩
  rw [State.readByte, Memory.readAt, Memory.lookup_eq_none h, Option.getD_none]

/-! ## A line held asserted (R259) -/

/-- The frame's return address, read as a word (R265). -/
theorem State.readWord_pushFrame (s : State) : s.pushFrame.readWord (s.reg Reg.sp - 2) = s.pc := by
  have hlow : s.reg Reg.sp - 2 + 1 = s.reg Reg.sp - 1 := by bv_omega
  obtain ⟨-, -, hpcHigh, hpcLow⟩ := s.readByte_pushFrame_same
  rw [State.readWord, hlow, hpcHigh, hpcLow, wordOfBytes_hob_lob]

/-- The step that enters a line leaves its frame's return address above the new SP, four bytes down (R258, R265). -/
theorem State.frame_takeInterrupt (s : State) (n : Fin 8) :
    (s.takeInterrupt n).nextBoundary.reg Reg.sp = s.reg Reg.sp - 4 ∧
      (s.takeInterrupt n).nextBoundary.readWord (s.reg Reg.sp - 2) = s.pc :=
  ⟨s.reg_sp_pushFrame, s.readWord_pushFrame⟩

/-- A frame keeps a word when it keeps both its bytes. -/
theorem State.Keeps.readWord {s t : State} {rs : List Reg} {bs : List Word} {ps : List Part} (h : s.Keeps t rs bs ps)
    {a : Word} (hhigh : a ∉ bs) (hlow : a + 1 ∉ bs) : t.readWord a = s.readWord a := by
  rw [State.readWord, State.readWord, h.memory a hhigh, h.memory (a + 1) hlow]

/-- The frame of a second entry lies below that of a first, whose return address it keeps. -/
theorem State.readWord_frame_above {s t : State} (h : s.Keeps t [Reg.sp] (frameBytes (s.reg Reg.sp)) [.pc, .devices, .lines])
    {a : Word} (hsp : s.reg Reg.sp = a - 4) : t.readWord (a - 2) = s.readWord (a - 2) := by
  refine h.readWord ?_ ?_ <;>
    simp only [frameBytes, hsp, List.mem_cons, List.not_mem_nil, or_false, not_or] <;> and_intros <;> bv_omega

/-- The next boundary's sample is the scripted one (log 4), and the entry keeps the enables under the default
`IRQ_AUTO_MASK`. -/
theorem State.pendingLine_takeInterrupt (s : State) (n : Fin 8) {l : BitVec 8} {rest : List (BitVec 8)}
    (hfeed : s.irqFeed = l :: rest) :
    (s.takeInterrupt n).nextBoundary.pendingLine = ({ s with irqLines := l } : State).pendingLine := by
  have hkept : (s.takeInterrupt n).irqFeed = l :: rest := hfeed
  rw [State.pendingLine, State.nextBoundary_irqLines, State.nextLines, hkept]
  rfl

/-- Settles O53: the second frame lies below the first, and its return address is the first entry. -/
theorem heldLineIsTakenAgain : Obligations.HeldLineIsTakenAgain := by
  intro s n l rest hrb hp hfeed hagain
  obtain ⟨hsp, hreturn⟩ := s.frame_takeInterrupt n
  have hfirst := step_interrupt hrb hp
  have hpending := (s.pendingLine_takeInterrupt n hfeed).trans hagain
  have hentered : (s.takeInterrupt n).nextBoundary.rb = true ∧ (s.takeInterrupt n).nextBoundary.pc = ivtEntry n :=
    ⟨hrb, rfl⟩
  generalize (s.takeInterrupt n).nextBoundary = t at *
  obtain ⟨hrb', hpc⟩ := hentered
  obtain ⟨hsp', hreturn'⟩ := t.frame_takeInterrupt n
  have height : s.reg Reg.sp - 4 - 4 = s.reg Reg.sp - 8 := by bv_omega
  have hsix : s.reg Reg.sp - 4 - 2 = s.reg Reg.sp - 6 := by bv_omega
  refine ⟨t, (t.takeInterrupt n).nextBoundary, hfirst, step_interrupt hrb' hpending, rfl, ?_, ?_, ?_⟩
  · rw [hsp', hsp, height]
  · rw [← hsix, ← hsp, hreturn', hpc]
  · rw [State.readWord_frame_above (t.keeps_takeInterrupt_nextBoundary n) hsp, hreturn]

/-! ## Reset -/

/-- Settles O12: reset lists no memory and has an empty history. -/
theorem resetSatisfiesTheInvariant : Obligations.ResetSatisfiesTheInvariant :=
  ⟨Memory.wf_nil, by decide, by simp [State.reset], Nat.zero_le _⟩

/-- Settles O24: each mode's address is the one its rule prints. -/
theorem effectiveAddresses : Obligations.EffectiveAddresses :=
  fun _ _ => ⟨rfl, rfl, rfl, rfl, rfl⟩

end Sys2Proof.Machine

/-! PROOF. The ALU instructions with a 16-bit result: what the two-register and the one-register operation leave, the
arithmetic of each result and its flags, and the latches of all two-register instructions. -/

namespace Sys2Proof.Machine

/-! ## What the operations leave (R150, R161) -/

/-- A written result is the destination's new value, and N and Z describe it. -/
theorem State.writeAlu_ofValue (s : State) (a b : Word) (d : Reg) (v : Word) (c o : Bool) :
    (s.writeAlu a b d (.ofValue v c o)).reg d = v ∧
      (s.writeAlu a b d (.ofValue v c o)).flags = ⟨v.getLsbD 15, decide (v = 0#16), c, o⟩ := by
  refine ⟨by rw [State.reg_writeAlu, if_pos rfl]; rfl, ?_⟩
  rw [← Bool.beq_eq_decide_eq]
  exact State.flags_setFlags _ _

/-- The two-register operation, from its result. -/
theorem State.aluTwo_ofValue (s : State) (d r : Reg) {f : Word → Word → AluResult} {v : Word} {c o : Bool}
    (h : f (s.reg d) (s.reg r) = .ofValue v c o) :
    (s.aluTwo f d r).reg d = v ∧
      (s.aluTwo f d r).flags =
        ⟨((s.aluTwo f d r).reg d).getLsbD 15, decide ((s.aluTwo f d r).reg d = 0#16), c, o⟩ := by
  obtain ⟨hvalue, hflags⟩ := s.writeAlu_ofValue (s.reg d) (s.reg r) d v c o
  rw [← h] at hvalue hflags
  rw [State.aluTwo, hvalue]
  exact ⟨rfl, hflags⟩

/-- The one-register operation, from its result. -/
theorem State.aluOne_ofValue (s : State) (d : Reg) {f : Word → AluResult} {v : Word} {c o : Bool}
    (h : f (s.reg d) = .ofValue v c o) :
    (s.aluOne f d).reg d = v ∧
      (s.aluOne f d).flags = ⟨((s.aluOne f d).reg d).getLsbD 15, decide ((s.aluOne f d).reg d = 0#16), c, o⟩ := by
  obtain ⟨hvalue, hflags⟩ := s.writeAlu_ofValue (s.reg d) s.aluB d v c o
  rw [← h] at hvalue hflags
  rw [State.aluOne, hvalue]
  exact ⟨rfl, hflags⟩

theorem State.swLow_aluTwo (s : State) (f : Word → Word → AluResult) (d r : Reg) :
    (s.aluTwo f d r).sw.extractLsb' 0 12 = s.sw.extractLsb' 0 12 :=
  State.swLow_setFlags s _

theorem State.swLow_aluOne (s : State) (f : Word → AluResult) (d : Reg) :
    (s.aluOne f d).sw.extractLsb' 0 12 = s.sw.extractLsb' 0 12 :=
  State.swLow_setFlags s _

/-! ## ADD and SUB (R151, R152) -/

/-- Bit 16 of a 17-bit sum is its carry. -/
theorem testBit_carry {t : Nat} (h : t < 131072) : t.testBit 16 = decide (65536 ≤ t) := by
  rw [Nat.testBit_eq_decide_div_mod_eq]
  exact decide_eq_decide.mpr (by omega)

/-- A signed sum overflows when it leaves the range of a word. -/
theorem saddOverflow_word (a b : Word) :
    a.saddOverflow b = decide (a.toInt + b.toInt < -32768 ∨ 32767 < a.toInt + b.toInt) := by
  rw [BitVec.saddOverflow, ← Bool.decide_or]
  exact decide_eq_decide.mpr (by omega)

/-- A signed difference overflows when it leaves the range of a word. -/
theorem ssubOverflow_word (a b : Word) :
    a.ssubOverflow b = decide (a.toInt - b.toInt < -32768 ∨ 32767 < a.toInt - b.toInt) := by
  rw [BitVec.ssubOverflow, ← Bool.decide_or]
  exact decide_eq_decide.mpr (by omega)

theorem addResult_eq (a b : Word) :
    addResult a b = .ofValue (a + b) (decide (65536 ≤ a.toNat + b.toNat))
      (decide (a.toInt + b.toInt < -32768 ∨ 32767 < a.toInt + b.toInt)) := by
  have hvalue : BitVec.ofNat 16 (a.toNat + b.toNat) = a + b := (BitVec.ofNat_add _ _).trans (by simp)
  rw [addResult, hvalue, testBit_carry (by omega), bne, ← BitVec.saddOverflow_eq, saddOverflow_word]

/-- The sum `A + NOT B + 1` is the difference, and it carries exactly when there is no borrow. -/
theorem subResult_eq (a b : Word) :
    subResult true a b = .ofValue (a - b) (decide (b.toNat ≤ a.toNat))
      (decide (a.toInt - b.toInt < -32768 ∨ 32767 < a.toInt - b.toInt)) := by
  have hnot : (~~~b).toNat = 65535 - b.toNat := BitVec.toNat_not
  have hvalue : BitVec.ofNat 16 (a.toNat + (~~~b).toNat + 1) = a - b := by
    apply BitVec.eq_of_toNat_eq
    rw [BitVec.toNat_ofNat, BitVec.toNat_sub, hnot]
    omega
  have hcarry : (a.toNat + (~~~b).toNat + 1).testBit 16 = decide (b.toNat ≤ a.toNat) := by
    rw [testBit_carry (by omega), hnot]
    exact decide_eq_decide.mpr (by omega)
  have hover : (a.msb != b.msb && (a - b).msb != a.msb) = a.ssubOverflow b := by
    rw [BitVec.ssubOverflow_eq]
    cases a.msb <;> cases b.msb <;> cases (a - b).msb <;> rfl
  rw [subResult, hvalue, if_pos rfl, hcarry, hover, ssubOverflow_word]

/-- Settles O35: the 17-bit sum's low word and carry, and the signed overflow. -/
theorem addResultAndFlags : Obligations.AddResultAndFlags := by
  intro d r s
  obtain ⟨hvalue, hflags⟩ := s.aluTwo_ofValue d r (addResult_eq _ _)
  refine ⟨encodes_of_encode (i := .add d r) rfl rfl, s.aluTwo addResult d r, rfl, ?_, hflags, s.swLow_aluTwo _ d r,
    s.keeps_aluTwo _ d r⟩
  rw [hvalue, BitVec.toNat_add]

/-- Settles O36: the adder's difference and carry, under the default `SUB_CARRY_IS_ADDER_CARRY`. -/
theorem subResultAndFlags : Obligations.SubResultAndFlags := by
  intro d r s
  obtain ⟨hvalue, hflags⟩ := s.aluTwo_ofValue d r (subResult_eq _ _)
  refine ⟨encodes_of_encode (i := .sub d r) rfl rfl, s.aluTwo (subResult true) d r, rfl, ?_, hflags, s.swLow_aluTwo _ d r,
    s.keeps_aluTwo _ d r⟩
  rw [hvalue, BitVec.toNat_sub]
  omega

/-! ## AND, OR, XOR and NOT (R155 to R158) -/

/-- The `r2` field of NOT (R88, R97). -/
theorem faultsAsReserved_not (d : Reg) {f : BitVec 4} (hf : f ≠ 0#4) :
    FaultsAsReserved (0b01001#5 ++ fieldOfReg d ++ f ++ 0b111#3) := by
  change FaultsAsReserved (encRRM 0b01001#5 d (regOfField f) 0b111#3)
  exact faultsAsReserved_of_needZero (i := .bitNot d) hf fun operand => by simp [decodeWord_alu, decodeAlu, reg1]

/-- Settles O39: each result is the bitwise operation of the operands, with C and O 0. -/
theorem logicResultsAndFlags : Obligations.LogicResultsAndFlags := by
  refine ⟨fun d r s => ?_, fun d r s => ?_, fun d r s => ?_, fun d s => ?_⟩
  · obtain ⟨hvalue, hflags⟩ := s.aluTwo_ofValue d r (f := andResult) rfl
    refine ⟨encodes_of_encode (i := .bitAnd d r) rfl rfl, s.aluTwo andResult d r, rfl, fun k => ?_, hflags,
      s.swLow_aluTwo _ d r, s.keeps_aluTwo _ d r⟩
    rw [hvalue, BitVec.getLsbD_and]
  · obtain ⟨hvalue, hflags⟩ := s.aluTwo_ofValue d r (f := orResult) rfl
    refine ⟨encodes_of_encode (i := .bitOr d r) rfl rfl, s.aluTwo orResult d r, rfl, fun k => ?_, hflags,
      s.swLow_aluTwo _ d r, s.keeps_aluTwo _ d r⟩
    rw [hvalue, BitVec.getLsbD_or]
  · obtain ⟨hvalue, hflags⟩ := s.aluTwo_ofValue d r (f := xorResult) rfl
    refine ⟨encodes_of_encode (i := .bitXor d r) rfl rfl, s.aluTwo xorResult d r, rfl, fun k => ?_, hflags,
      s.swLow_aluTwo _ d r, s.keeps_aluTwo _ d r⟩
    rw [hvalue, BitVec.getLsbD_xor]
  · obtain ⟨hvalue, hflags⟩ := s.aluOne_ofValue d (f := notResult) rfl
    refine ⟨encodes_of_encode (i := .bitNot d) rfl rfl, fun f hf => faultsAsReserved_not d hf, s.aluOne notResult d, rfl,
      fun k hk => ?_, hflags, s.swLow_aluOne _ d, s.keeps_aluOne _ d⟩
    rw [hvalue, BitVec.getLsbD_not, decide_eq_true hk, Bool.true_and]

/-! ## SHL and SHR (R159, R160) -/

/-- A reserved `mode` of SHL or SHR (R88, R99). -/
theorem faultsAsReserved_shift {op : BitVec 5} (hop : op ∈ [0b01000#5, 0b01010#5]) (d r : Reg) {m : BitVec 3}
    (hm : m ≠ 0#3) : FaultsAsReserved (op ++ fieldOfReg d ++ fieldOfReg r ++ m) := by
  have hmode : (modeField (encRRM op d r m)).toNat ≠ 0 := by
    rw [modeField_encRRM]
    exact fun h => hm (BitVec.eq_of_toNat_eq h)
  refine faultsAsReserved_of_decodeWord (w := encRRM op d r m) (e := .reservedMode op m) fun operand => ?_
  simp only [List.mem_cons, List.not_mem_nil, or_false] at hop
  rcases hop with rfl | rfl
  · rw [decodeWord_shl operand (opField_encRRM ..), decodeShl]
    split
    · contradiction
    · simp [badMode]
  · rw [decodeWord_shr operand (opField_encRRM ..), decodeShr]
    split
    · contradiction
    · simp [badMode]

/-- A word's top bit is its upper half of values. -/
theorem msb_word (b : Word) : b.msb = decide (32768 ≤ b.toNat) :=
  BitVec.msb_eq_decide b

/-- The low fifteen bits one place up: doubling modulo 65536. -/
theorem toNat_shifted_left (b : Word) : (b.extractLsb' 0 15 ++ 0#1 : Word).toNat = 2 * b.toNat % 65536 := by
  rw [BitVec.toNat_append, BitVec.extractLsb'_toNat, Nat.shiftLeft_eq, Nat.shiftRight_zero, BitVec.toNat_ofNat,
    Nat.zero_mod, Nat.or_zero]
  omega

/-- The high fifteen bits one place down, with a 0 above them: halving. -/
theorem toNat_shifted_right (b : Word) : (0#1 ++ b.extractLsb' 1 15 : Word).toNat = b.toNat / 2 := by
  rw [BitVec.toNat_append, BitVec.extractLsb'_toNat, Nat.shiftRight_eq_div_pow, BitVec.toNat_ofNat, Nat.zero_mod,
    Nat.zero_shiftLeft, Nat.zero_or]
  omega

/-- Settles O40: C is the bit shifted out, and SHR shifts a 0 in under the default `SHR_ARITHMETIC`. -/
theorem shiftResultsAndFlags : Obligations.ShiftResultsAndFlags := by
  refine ⟨fun d r s => ?_, fun d r s => ?_⟩
  · obtain ⟨hvalue, hflags⟩ := s.aluTwo_ofValue d r (f := fun _ b => shlResult b) rfl
    refine ⟨encodes_of_encode (i := .shl d r) rfl rfl, fun m hm => faultsAsReserved_shift (by decide) d r hm,
      s.aluTwo (fun _ b => shlResult b) d r, rfl, ?_, ?_, s.swLow_aluTwo _ d r, s.keeps_aluTwo _ d r⟩
    · rw [hvalue, toNat_shifted_left]
    · rw [hflags, msb_word]
  · obtain ⟨hvalue, hflags⟩ := s.aluTwo_ofValue d r (f := fun _ b => shrResult false b) rfl
    have hhalf : ((s.aluTwo (fun _ b => shrResult false b) d r).reg d).toNat = (s.reg r).toNat / 2 := by
      rw [hvalue]
      exact toNat_shifted_right _
    have hpositive : ((s.aluTwo (fun _ b => shrResult false b) d r).reg d).getLsbD 15 = false := by
      rw [BitVec.getLsbD, hhalf]
      exact Nat.testBit_lt_two_pow (by omega)
    refine ⟨encodes_of_encode (i := .shr d r) rfl rfl, fun m hm => faultsAsReserved_shift (by decide) d r hm,
      s.aluTwo (fun _ b => shrResult false b) d r, rfl, hhalf, ?_, s.swLow_aluTwo _ d r, s.keeps_aluTwo _ d r⟩
    rw [hflags, hpositive, BitVec.getLsbD, Nat.testBit_zero]

/-! ## The latches (R33, R150) -/

/-- The two-register operation latches both operands as they were, and writes the low half of R. -/
theorem State.latches_aluTwo (s : State) (f : Word → Word → AluResult) (d r : Reg) :
    (s.aluTwo f d r).aluA = s.reg d ∧ (s.aluTwo f d r).aluB = s.reg r ∧
      (s.aluTwo f d r).reg d = (s.aluTwo f d r).aluR.extractLsb' 0 16 := by
  refine ⟨rfl, rfl, ?_⟩
  rw [State.aluTwo, State.reg_writeAlu, if_pos rfl, State.writeAlu_eq]
  exact (BitVec.extractLsb'_setWidth_of_le (by decide)).trans BitVec.extractLsb'_eq_self |>.symm

/-- The wide operation latches both operands as they were, and writes the two halves of R. -/
theorem State.latches_aluWide (s : State) (f : Word → Word → WideResult) (o1 o2 : Reg) :
    (s.aluWide f o1 o2).aluA = s.reg o1 ∧ (s.aluWide f o1 o2).aluB = s.reg o2 ∧
      (s.aluWide f o1 o2).reg 8 = (s.aluWide f o1 o2).aluR.extractLsb' 16 16 ∧
      (s.aluWide f o1 o2).reg 9 = (s.aluWide f o1 o2).aluR.extractLsb' 0 16 := by
  refine ⟨rfl, rfl, ?_, ?_⟩
  · rw [State.reg_r8_aluWide]
    exact BitVec.extractLsb'_append_eq_left.symm
  · rw [State.reg_r9_aluWide]
    exact BitVec.extractLsb'_append_eq_right.symm

/-- Settles O41: seven instructions are the two-register operation, and MUL and DIV the wide one. -/
theorem aluLatchesHoldOperandsAndResult : Obligations.AluLatchesHoldOperandsAndResult := by
  intro d r s t
  refine ⟨fun i hi h => ?_, fun i hi h => ?_⟩
  all_goals simp only [List.mem_cons, List.not_mem_nil, or_false] at hi
  · rcases hi with rfl | rfl | rfl | rfl | rfl | rfl | rfl <;> cases h <;> exact s.latches_aluTwo _ d r
  · rcases hi with rfl | rfl
    · cases h
      exact s.latches_aluWide _ d r
    · obtain ⟨-, rfl⟩ := execDiv_next h
      exact s.latches_aluWide _ d r

end Sys2Proof.Machine
